-- ==== Sys2Proof/Word.lean ====
section
/-!
DEFINITION. The words of the block: bytes, 32-bit words, and their reading as two's complement
(00_scope.md R8, 30_encoding.md R103).
-/

namespace Sys2Proof

/-- One byte of a memory window (20_memory.md R71). -/
abbrev Byte := BitVec 8

/-- One 32-bit word: a register or an element of a window (10_state.md R33, 20_memory.md R71). -/
abbrev Word := BitVec 32

/-- A number's low 32 bits (10_state.md R36: "stored as its low 32 bits"). -/
abbrev Word.low (n : Nat) : Word := BitVec.ofNat 32 n

/-- An integer's 32-bit two's-complement pattern (20_memory.md R74). -/
abbrev Word.ofI32 (y : Int) : Word := BitVec.ofInt 32 y

/-- The "i32" reading of an operand register (30_encoding.md R103). -/
abbrev Word.i32 (w : Word) : Int := w.toInt

end Sys2Proof
end

