-- ==== Sys2Proof/Syntax.lean ====
section
/-!
DEFINITION. The instructions: one constructor per row of spec/opcode_table.json.

The first seventeen are the commands of 30_encoding.md R102. A command carries no operand: R100 says "Operands
are not part of the command word". The last fifteen are the fixed-value fields of the bitstream grammar
(R106 to R116): what the engine finds at BIT_POS, which "plays the role of a program counter" (10_state.md R38).
-/

namespace Sys2Proof

inductive Instr where
  /-- READ_BITS, opcode 0x01 (40_bitreader.md R154). -/
  | readBits
  /-- ILOG, opcode 0x02 (41_numeric.md R171). -/
  | ilog
  /-- FLOAT32_UNPACK, opcode 0x03 (R174). -/
  | float32Unpack
  /-- LOOKUP1_VALUES, opcode 0x04 (R177). -/
  | lookup1Values
  /-- LOW_NEIGHBOR, opcode 0x05 (R182). -/
  | lowNeighbor
  /-- HIGH_NEIGHBOR, opcode 0x06 (R183). -/
  | highNeighbor
  /-- RENDER_POINT, opcode 0x07 (R185). -/
  | renderPoint
  /-- RENDER_LINE, opcode 0x08 (R186). -/
  | renderLine
  /-- HUFF_CLEAR, opcode 0x09 (42_huffman.md R214). -/
  | huffClear
  /-- HUFF_ADD_NODE, opcode 0x0A (R215). -/
  | huffAddNode
  /-- DECODE_CODEBOOK, opcode 0x10 (43_codebook.md R240). -/
  | decodeCodebook
  /-- DECODE_FLOOR, opcode 0x11 (44_floor.md R283). -/
  | decodeFloor
  /-- DECODE_RESIDUE, opcode 0x12 (45_residue.md R304). -/
  | decodeResidue
  /-- DECODE_MAPPING, opcode 0x13 (46_mapping.md R327). -/
  | decodeMapping
  /-- DECODE_MODE, opcode 0x14 (47_mode_tdt.md R342). -/
  | decodeMode
  /-- DECODE_TDT, opcode 0x15 (R345). -/
  | decodeTdt
  /-- DECODE_SETUP, opcode 0x20 (48_setup.md R364). -/
  | decodeSetup
  /-- CODEBOOK_SYNC, the 24-bit value 0x564342 (43_codebook.md R231). -/
  | codebookSync
  /-- CODEBOOK_LOOKUP_NONE, lookup_type 0 (R237). -/
  | codebookLookupNone
  /-- CODEBOOK_LOOKUP_TYPE1, lookup_type 1 (R237, R238). -/
  | codebookLookupType1
  /-- CODEBOOK_LOOKUP_TYPE2, lookup_type 2 (R237, R238). -/
  | codebookLookupType2
  /-- FLOOR_TYPE0, floor_type 0 (44_floor.md R271, R272). -/
  | floorType0
  /-- FLOOR_TYPE1, floor_type 1 (R271, R274). -/
  | floorType1
  /-- RESIDUE_TYPE0, residue_type 0 (45_residue.md R300). -/
  | residueType0
  /-- RESIDUE_TYPE1, residue_type 1 (R300). -/
  | residueType1
  /-- RESIDUE_TYPE2, residue_type 2 (R300). -/
  | residueType2
  /-- MAPPING_TYPE0, mapping_type 0 (46_mapping.md R320). -/
  | mappingType0
  /-- MAPPING_RESERVED, the mapping's two reserved bits, 0 (R324). -/
  | mappingReserved
  /-- MODE_WINDOW_TYPE0, window_type 0 (47_mode_tdt.md R340). -/
  | modeWindowType0
  /-- MODE_TRANSFORM_TYPE0, transform_type 0 (R340). -/
  | modeTransformType0
  /-- TDT_RESERVED, reserved 0 (R344). -/
  | tdtReserved
  /-- SETUP_FRAMING, the framing bit 1 (48_setup.md R365). -/
  | setupFraming
deriving DecidableEq, Repr

end Sys2Proof
end

