-- ==== Sys2Proof/Decode.lean ====
section
/-!
DEFINITION. Decoding and encoding.

A command word has one field, OPCODE in bits [7:0] (30_encoding.md R100, R102). A bitstream tag is decoded in the
context of the field the engine is at: the same bits are a floor type in one place and a residue type in another
(R108 to R115). So the decoder takes the field and the value, and rejects by name.
-/

namespace Sys2Proof

/-- A place an instruction is read from: CMD, or a fixed-value field of the grammar (R108 to R116). -/
inductive Field where
  | command
  | codebookSync
  | codebookLookup
  | floorType
  | residueType
  | mappingType
  | mappingReserved
  | modeWindow
  | modeTransform
  | tdtReserved
  | setupFraming
deriving DecidableEq, Repr

/-- Every field, in the order of spec/opcode_table.json. -/
def Field.all : List Field :=
  [.command, .codebookSync, .codebookLookup, .floorType, .residueType, .mappingType, .mappingReserved,
   .modeWindow, .modeTransform, .tdtReserved, .setupFraming]

/-- The field's width in bits (R100, R108 to R115). -/
def Field.width : Field → Nat
  | .command => 8
  | .codebookSync => 24
  | .codebookLookup => 4
  | .floorType => 16
  | .residueType => 16
  | .mappingType => 16
  | .mappingReserved => 2
  | .modeWindow => 16
  | .modeTransform => 16
  | .tdtReserved => 16
  | .setupFraming => 1

/-- The width spec/opcode_table.json gives the field's rows, in whole bytes. -/
def Field.tableBits (f : Field) : Nat := (f.width + 7) / 8 * 8

/-- Why a value is no instruction. -/
inductive Reject where
  /-- An OPCODE that R102 does not assign (R105, IllegalCommand). -/
  | unassignedOpcode (opcode : Nat)
  /-- A field value that R116 lists as illegal. -/
  | illegalValue (field : Field) (value : Nat)
deriving DecidableEq, Repr

/-- The opcode map of 30_encoding.md R102. -/
def decodeOpcode (op : Nat) : Except Reject Instr :=
  match op with
  | 0x01 => .ok .readBits
  | 0x02 => .ok .ilog
  | 0x03 => .ok .float32Unpack
  | 0x04 => .ok .lookup1Values
  | 0x05 => .ok .lowNeighbor
  | 0x06 => .ok .highNeighbor
  | 0x07 => .ok .renderPoint
  | 0x08 => .ok .renderLine
  | 0x09 => .ok .huffClear
  | 0x0A => .ok .huffAddNode
  | 0x10 => .ok .decodeCodebook
  | 0x11 => .ok .decodeFloor
  | 0x12 => .ok .decodeResidue
  | 0x13 => .ok .decodeMapping
  | 0x14 => .ok .decodeMode
  | 0x15 => .ok .decodeTdt
  | 0x20 => .ok .decodeSetup
  | _ => .error (.unassignedOpcode op)

/-- The value `v` read at a field (R108 to R116). -/
def decodeField (f : Field) (v : Nat) : Except Reject Instr :=
  match f with
  | .command => decodeOpcode v
  | .codebookSync => if v = 0x564342 then .ok .codebookSync else .error (.illegalValue f v)
  | .codebookLookup =>
    match v with
    | 0 => .ok .codebookLookupNone
    | 1 => .ok .codebookLookupType1
    | 2 => .ok .codebookLookupType2
    | _ => .error (.illegalValue f v)
  | .floorType =>
    match v with
    | 0 => .ok .floorType0
    | 1 => .ok .floorType1
    | _ => .error (.illegalValue f v)
  | .residueType =>
    match v with
    | 0 => .ok .residueType0
    | 1 => .ok .residueType1
    | 2 => .ok .residueType2
    | _ => .error (.illegalValue f v)
  | .mappingType => if v = 0 then .ok .mappingType0 else .error (.illegalValue f v)
  | .mappingReserved => if v = 0 then .ok .mappingReserved else .error (.illegalValue f v)
  | .modeWindow => if v = 0 then .ok .modeWindowType0 else .error (.illegalValue f v)
  | .modeTransform => if v = 0 then .ok .modeTransformType0 else .error (.illegalValue f v)
  | .tdtReserved => if v = 0 then .ok .tdtReserved else .error (.illegalValue f v)
  | .setupFraming => if v = 1 then .ok .setupFraming else .error (.illegalValue f v)

/-- The command of a word written to CMD: bits [31:8] are ignored (10_state.md R34). -/
def decodeCommandWord (w : Word) : Except Reject Instr := decodeField .command (w.toNat % 256)

/-- The instruction at a field, if the value is one. -/
def decodeAt (v : Nat) (f : Field) : Option Instr :=
  match decodeField f v with
  | .ok i => some i
  | .error _ => none

/-- The field that a word of spec/opcode_table.json is read at when nothing but its length is known: the first
field of that length, in the table's order, that accepts the value. A bitstream tag's context is not in its bits
(notes/assumptions/10.md). -/
def fieldOfTableWord (nbits w : Nat) : Option Field :=
  Field.all.find? (fun f => f.tableBits == nbits && (decodeAt w f).isSome)

/-- The instruction this decoder reads from a word numbered as spec/opcode_table.json numbers it. -/
def decodeTableWord (nbits w : Nat) : Option Instr := (fieldOfTableWord nbits w).bind (decodeAt w)

/-- The field and the value of an instruction (R102, R108 to R115). -/
def encode : Instr → Field × Nat
  | .readBits => (.command, 0x01)
  | .ilog => (.command, 0x02)
  | .float32Unpack => (.command, 0x03)
  | .lookup1Values => (.command, 0x04)
  | .lowNeighbor => (.command, 0x05)
  | .highNeighbor => (.command, 0x06)
  | .renderPoint => (.command, 0x07)
  | .renderLine => (.command, 0x08)
  | .huffClear => (.command, 0x09)
  | .huffAddNode => (.command, 0x0A)
  | .decodeCodebook => (.command, 0x10)
  | .decodeFloor => (.command, 0x11)
  | .decodeResidue => (.command, 0x12)
  | .decodeMapping => (.command, 0x13)
  | .decodeMode => (.command, 0x14)
  | .decodeTdt => (.command, 0x15)
  | .decodeSetup => (.command, 0x20)
  | .codebookSync => (.codebookSync, 0x564342)
  | .codebookLookupNone => (.codebookLookup, 0)
  | .codebookLookupType1 => (.codebookLookup, 1)
  | .codebookLookupType2 => (.codebookLookup, 2)
  | .floorType0 => (.floorType, 0)
  | .floorType1 => (.floorType, 1)
  | .residueType0 => (.residueType, 0)
  | .residueType1 => (.residueType, 1)
  | .residueType2 => (.residueType, 2)
  | .mappingType0 => (.mappingType, 0)
  | .mappingReserved => (.mappingReserved, 0)
  | .modeWindowType0 => (.modeWindow, 0)
  | .modeTransformType0 => (.modeTransform, 0)
  | .tdtReserved => (.tdtReserved, 0)
  | .setupFraming => (.setupFraming, 1)

/-- The word a host writes to CMD to start a command, and nothing for a bitstream tag (R100, R119). -/
def encodeCommandWord (i : Instr) : Option Word :=
  match encode i with
  | (.command, op) => some (Word.low op)
  | _ => none

/-- The decode opcodes of R102's "decode" class: 0x10 to 0x15 and 0x20 (10_state.md R47). -/
def isDecodeOpcode (op : Byte) : Bool :=
  (0x10 ≤ op.toNat && op.toNat ≤ 0x15) || op.toNat == 0x20

end Sys2Proof
end

