-- ==== Sys2Proof/Machine/Records.lean ====
section
/-!
DEFINITION. The record types of the record store and the Huffman tree (10_state.md R51 to R62).
A field the spec types u8, u16 or u32 is a natural number here; the ranges the spec gives are the
predicates of Sys2Proof/WellFormed.lean. A binary32 value is held as its bit pattern (R54, R173).
-/

namespace Sys2Proof

/-- A node of a Huffman tree (R51). Child indices name nodes of the same list. -/
inductive HuffNode where
  | internal (left right : Option Nat)
  | leaf (symbol : Word)
deriving DecidableEq, Repr

/-- A Huffman tree: nodes indexed from 0, node 0 the root (R51). -/
abbrev HuffTree := List HuffNode

/-- R210: "The empty tree is `[Internal(None, None)]`: one root with no children." -/
def HuffTree.empty : HuffTree := [.internal none none]

/-- R54. `minimumValue` and `deltaValue` are binary32 bit patterns. -/
structure VectorLookupTable where
  minimumValue : Word
  deltaValue : Word
  valueBits : Nat
  sequenceP : Bool
  lookupValues : Nat
  multiplicands : List Nat
deriving DecidableEq, Repr

/-- R53. -/
structure Codebook where
  dimensions : Nat
  entries : Nat
  ordered : Bool
  sparse : Option Bool
  codewordLengths : List (Option Nat)
  lookupType : Nat
  vectorLookupTable : Option VectorLookupTable
  huffmanTree : HuffTree
deriving DecidableEq, Repr

/-- R55. -/
structure Floor0 where
  order : Nat
  rate : Nat
  barkMapSize : Nat
  amplitudeBits : Nat
  amplitudeOffset : Nat
  numberOfBooks : Nat
  bookList : List Nat
deriving DecidableEq, Repr

/-- R57. A subclass book is the signed value byte - 1. -/
structure FloorClass where
  dimensions : Nat
  subclasses : Nat
  masterbooks : Option Nat
  subclassBooks : List Int
deriving DecidableEq, Repr

/-- R56. -/
structure Floor1 where
  partitions : Nat
  partitionClassList : List Nat
  maximumClass : Nat
  classes : List FloorClass
  multiplier : Nat
  rangebits : Nat
  xList : List Nat
deriving DecidableEq, Repr

/-- R55: "the tagged union `Zero(Floor0) | One(Floor1)`". -/
inductive Floor where
  | zero (f : Floor0)
  | one (f : Floor1)
deriving DecidableEq, Repr

/-- R58. -/
structure Residue where
  residueType : Nat
  beginBound : Nat
  endBound : Nat
  partitionSize : Nat
  classifications : Nat
  classbook : Nat
  cascade : List Nat
  books : List (List (Option Nat))
deriving DecidableEq, Repr

/-- R59: a submap's floor and residue indices; the time placeholder is not stored. -/
structure Submap where
  floor : Nat
  residue : Nat
deriving DecidableEq, Repr

/-- R59. -/
structure Mapping where
  mappingType : Nat
  submaps : Nat
  couplingSteps : Nat
  magnitude : List Nat
  angle : List Nat
  mux : List Nat
  submapsVec : List Submap
deriving DecidableEq, Repr

/-- R60. -/
structure Mode where
  blockflag : Bool
  windowType : Nat
  transformType : Nat
  mapping : Nat
deriving DecidableEq, Repr

/-- R61. -/
structure TimeDomainTransform where
  reserved : Nat
deriving DecidableEq, Repr

/-- R62: the six ordered lists. -/
structure SetupHeader where
  codebooks : List Codebook
  timeDomainTransforms : List TimeDomainTransform
  floors : List Floor
  residues : List Residue
  mappings : List Mapping
  modes : List Mode
deriving DecidableEq, Repr

/-- One record value of the record store (R52). -/
inductive Record where
  | codebook (r : Codebook)
  | tdt (r : TimeDomainTransform)
  | floor (r : Floor)
  | residue (r : Residue)
  | mapping (r : Mapping)
  | mode (r : Mode)
  | setup (r : SetupHeader)
deriving DecidableEq, Repr

/-- The header with no list read yet, which the orchestrator starts from (48_setup.md R360). -/
def SetupHeader.empty : SetupHeader := ⟨[], [], [], [], [], []⟩

end Sys2Proof
end

