-- ==== Sys2Proof/Config.lean ====
section
/-!
DEFINITION. What an implementation fixes and what the spec leaves free.

`Params` holds the named parameters of 00_scope.md R7. The spec says that the block "takes the following
named parameters as arguments"; they stand in `State.params`, which no step changes, so that a statement over
all states holds for every value of every parameter. The opaque constants are the spec's draws and its open
record layout: nothing in Lean can evaluate one or prove a value of one.
-/

namespace Sys2Proof

/-- The parameters of 00_scope.md R7. A capacity of `none` is the spec's `∞`: its check never fires. -/
structure Params where
  /-- IN_CAP: bytes of IN_MEM. -/
  inCap : Nat
  /-- VEC_CAP: 32-bit words of VEC_MEM. -/
  vecCap : Nat
  /-- LINE_CAP: 32-bit words of LINE_BUF. -/
  lineCap : Nat
  /-- HUFF_CAP: nodes of HUFF_WORK. -/
  huffCap : Nat
  /-- ENTRY_CAP: the largest codebook `entries` the record store accepts. -/
  entryCap : Option Nat
  /-- MULT_CAP: the largest `lookup_values` the record store accepts. -/
  multCap : Option Nat
  /-- NODE_CAP: the largest node count of a codebook's Huffman tree. -/
  nodeCap : Option Nat
  /-- BASE: the bus address of the block's offset 0. -/
  base : Nat
deriving DecidableEq, Repr

/-- DESIGN CHOICE (notes/assumptions/1.md, unsafe): R7 gives these no default; `State.reset` takes the values the
vectors of 95_test_vectors.md use, every record-store capacity `∞` (the ideal model) and BASE 0. -/
def Params.default : Params where
  inCap := 4096
  vecCap := 1024
  lineCap := 1024
  huffCap := 65536
  entryCap := none
  multCap := none
  nodeCap := none
  base := 0

/-- The draw an IN_MEM, VEC_MEM or LINE_BUF byte holds from hardware reset until it is written
(70_reset_and_hazards.md R451: "unspecified: each element a draw, fixed until written"). `epoch` counts the
hardware resets, `address` is the byte's offset in the block. -/
opaque Config.memDraw (epoch address : Nat) : Byte

/-- The draw that a forbidden or malformed host read returns (10_state.md R46, 20_memory.md R72). `n` is the
number of draws taken before it. -/
opaque Config.busDraw (n : Nat) : Word

/-- Whether LINE_BUF element `x` holds its new value after a soft reset aborts a RENDER_LINE
(70_reset_and_hazards.md R452: "either its old value or its new value, independently and unspecified"). -/
opaque Config.lineKeepsNew (n x : Nat) : Bool

/-- REC_LAYOUT (00_scope.md R7, 20_memory.md R76): word `i` of the record store's window while it holds the
record. It is left OPEN by the spec. -/
opaque Config.recLayout (r : Record) (i : Nat) : Word

end Sys2Proof
end

