-- ==== Sys2Proof/Machine/Errors.lean ====
section
/-!
DEFINITION. The errors a command can raise, with their codes and contexts (60_exceptions.md R401, R402;
10_state.md R37). An error is the block's own completion of a command, not a stop of the model.
-/

namespace Sys2Proof.Machine

/-- The named errors of R401. -/
inductive ErrKind where
  | syncMismatch
  | reservedFieldViolation
  | countOverflow
  | invalidEnumValue
  | couplingConstraintViolation
  | muxOutOfRange
  | prematureEndOfData
  | trailingDataOrMissingFramingBit
  | huffmanNoRoom
  | floatNonFinite
  | emptyPartitionList
  | codewordLengthOverflow
  | degenerateLookup
  | noNeighbor
  | contractViolation
  | capacityExceeded
  | illegalCommand
deriving DecidableEq, Repr

/-- The codes of R401; 0 (`NONE`) belongs to success. -/
def ErrKind.code : ErrKind → Byte
  | .syncMismatch => 1
  | .reservedFieldViolation => 2
  | .countOverflow => 3
  | .invalidEnumValue => 4
  | .couplingConstraintViolation => 5
  | .muxOutOfRange => 6
  | .prematureEndOfData => 7
  | .trailingDataOrMissingFramingBit => 8
  | .huffmanNoRoom => 9
  | .floatNonFinite => 10
  | .emptyPartitionList => 11
  | .codewordLengthOverflow => 12
  | .degenerateLookup => 13
  | .noNeighbor => 14
  | .contractViolation => 15
  | .capacityExceeded => 16
  | .illegalCommand => 17

/-- `raise E(info, aux)` (00_scope.md R9). The two values are exact here; R403 stores their low 32 bits. -/
structure Raise where
  kind : ErrKind
  info : Nat
  aux : Nat
deriving DecidableEq, Repr

/-- ERR_CTX.STAGE (R37), in the order of the grammar. -/
inductive Stage where
  | outside
  | codebook
  | tdt
  | floor
  | residue
  | mapping
  | mode
  | framing
deriving DecidableEq, Repr

/-- The number of a stage (R37). -/
def Stage.code : Stage → Nat
  | .outside => 0
  | .codebook => 1
  | .tdt => 2
  | .floor => 3
  | .residue => 4
  | .mapping => 5
  | .mode => 6
  | .framing => 7

/-- The `ctx` of R240, R283, R304, R327, R342, R345, R360 and R365. -/
structure ErrCtx where
  stage : Stage
  inCount : Bool
  index : Nat
deriving DecidableEq, Repr

/-- R411: start checks run "with ERR_CTX = 0"; R37: STAGE 0 is "not in a record". -/
def ErrCtx.none : ErrCtx := ⟨.outside, false, 0⟩

end Sys2Proof.Machine
end

