-- ==== Sys2Proof/Machine/State.lean ====
section
/-!
DEFINITION. The state of the block, the host's pending bus events, and the state after hardware reset
(10_state.md, 20_memory.md R71, 70_reset_and_hazards.md R451).
-/

namespace Sys2Proof.Machine

/-- Why the machine stops. There is no reason: the spec's block never stops (93_implementation_defined.md: "No item
of this spec is `stuck`: every command terminates"), and what it calls a `fault` is the STATUS.HOST_FAULT bit. -/
inductive Fault
deriving DecidableEq, Repr

/-- Why an instruction is refused. -/
inductive Refusal where
  /-- Raised by an arm of exec whose instruction has no meaning yet (safe: the run stops). No arm raises it. -/
  | notModelled (mnemonic : String)
deriving DecidableEq, Repr

/-- The engine's phase (R31). -/
inductive Phase where
  | idle
  | busy
deriving DecidableEq, Repr

/-- The width of a host access. Only `word`, 32 bits, is legal (20_memory.md R72). DESIGN CHOICE (notes/assumptions/22.md,
unsafe in form): R72 lists no other width, and the model's host can make accesses of 8, 16 and 64 bits besides. -/
inductive Width where
  | byte
  | half
  | word
  | double
deriving DecidableEq, Repr

/-- What the outside world does to the block (60_exceptions.md R414, 70_reset_and_hazards.md R450): a bus access at
an absolute bus address, or the hardware reset input. DESIGN CHOICE (notes/assumptions/21.md, unsafe): `hardReset` is the
reset asserted and released at one moment, with no period in which it is held. -/
inductive HostEvent where
  | write (address : Nat) (width : Width) (data : Word)
  | read (address : Nat) (width : Width)
  | hardReset
deriving DecidableEq, Repr

/-- A pending host event. `wait = none`: the host waits until the engine is IDLE (R455). `wait = some k`: the event
lands after `k` further steps of a BUSY engine, inside the BUSY interval if the command is still running then. -/
structure Pending where
  wait : Option Nat
  event : HostEvent
deriving DecidableEq, Repr

/-- Byte memory: the written bytes of IN_MEM, VEC_MEM and LINE_BUF, keyed by their offset in the block, in rising
order. An offset not listed has not been written since hardware reset (R451). -/
abbrev Memory := List Host.Cell

/-- Where the engine stands inside a decode command (R63): the field it reads next. `none`: it is not inside one. -/
inductive Point where
  | none
  | codebookSync
  | codebookTable
  | codebookOrdered
  | codebookLookup
  | codebookTree
  | tdtReserved
  | floorType
  | residueType
  | mappingType
  | mappingCoupling
  | mappingReserved
  | mappingMux
  | modeBlockflag
  | modeWindow
  | modeTransform
  | modeMapping
  | setupCount
  | setupFraming
deriving DecidableEq, Repr

/-- The codebook under construction once its length table is read (43_codebook.md R232 to R236). -/
structure CodebookHead where
  dimensions : Nat
  entries : Nat
  ordered : Bool
  sparse : Option Bool
  codewordLengths : List (Option Nat)
deriving DecidableEq, Repr

/-- The mapping under construction once its coupling is read (46_mapping.md R321, R322). -/
structure MappingHead where
  submaps : Nat
  couplingSteps : Nat
  magnitude : List Nat
  angle : List Nat
deriving DecidableEq, Repr

/-- The engine's hidden parse variables (R63): "the codebook's `current_entry` and `current_length`, loop indices, the
record under construction and the position in the orchestrator's sequence". -/
structure ParseVars where
  /-- the field to read next -/
  point : Point
  /-- the command is DECODE_SETUP -/
  inSetup : Bool
  /-- the list the orchestrator is at (48_setup.md R360) -/
  stage : Stage
  /-- records of that list still to be decoded, the current one included -/
  left : Nat
  /-- BIT_POS when the command started (`p0`) -/
  start : Nat
  /-- the lists decoded so far -/
  header : SetupHeader
  /-- the codebook under construction -/
  book : CodebookHead
  /-- `current_entry` of R235, R236 -/
  currentEntry : Nat
  /-- `current_length` of R235, R236 -/
  currentLength : Nat
  /-- the codebook's lookup type and table (R237, R238) -/
  lookupType : Nat
  vectorTable : Option VectorLookupTable
  /-- the mapping under construction -/
  mapping : MappingHead
  /-- the mode's block flag (47_mode_tdt.md R341) -/
  blockflag : Bool
deriving DecidableEq, Repr

/-- No command is inside a record (R451: hidden parse state "none"). -/
def ParseVars.none : ParseVars where
  point := .none
  inSetup := false
  stage := .outside
  left := 0
  start := 0
  header := SetupHeader.empty
  book := ⟨0, 0, false, Option.none, []⟩
  currentEntry := 0
  currentLength := 0
  lookupType := 0
  vectorTable := Option.none
  mapping := ⟨0, 0, [], []⟩
  blockflag := false

/-- Everything the spec gives the block, the host's pending events and the model's own counters. STATUS, HUFF_COUNT,
RECORD_VALID and REC_KIND are views of these fields (Flags.lean, Operands.lean). -/
structure State where
  /-- The parameters of 00_scope.md R7; no step changes them. -/
  params : Params
  /-- R31; STATUS.BUSY. -/
  phase : Phase
  /-- CMD.OPCODE (R34). -/
  cmd : BitVec 8
  /-- STATUS.DONE, STATUS.ERR and STATUS.HOST_FAULT (R35). -/
  done : Bool
  err : Bool
  hostFault : Bool
  /-- ERR_CODE, ERR_INFO, ERR_AUX (R36) and ERR_CTX (R37). -/
  errCode : BitVec 8
  errInfo : Word
  errAux : Word
  errCtx : BitVec 16
  /-- BIT_POS (R38). -/
  bitPos : Word
  /-- IN_LEN (R39). -/
  inLen : Word
  /-- AUDIO_CHANNELS (R41). -/
  audioChannels : BitVec 8
  /-- VEC_LEN and LINE_LEN (R40). -/
  vecLen : Word
  lineLen : Word
  /-- OP0 to OP4 (R43). -/
  op0 : Word
  op1 : Word
  op2 : Word
  op3 : Word
  op4 : Word
  /-- RES0 and RES1 (R44). -/
  res0 : Word
  res1 : Word
  /-- The bytes of IN_MEM, VEC_MEM and LINE_BUF (20_memory.md R71). -/
  mem : Memory
  /-- HUFF_WORK (R50). -/
  huffWork : HuffTree
  /-- REC_STORE (R52). -/
  record : Option Record
  /-- The hidden parse variables (R63). -/
  parse : ParseVars
  /-- The host's events still to come, in program order (R85). -/
  bus : List Pending
  /-- The value the last host read returned. -/
  readData : Word
  /-- The model's own: hardware resets so far (the epoch of the memory draws). -/
  resets : Nat
  /-- The model's own: draws taken so far. -/
  draws : Nat
deriving DecidableEq, Repr

/-- The state after hardware reset with the parameters `p` (R451). -/
def State.resetWith (p : Params) : State where
  params := p
  phase := .idle
  cmd := 0
  done := false
  err := false
  hostFault := false
  errCode := 0
  errInfo := 0
  errAux := 0
  errCtx := 0
  bitPos := 0
  inLen := 0
  audioChannels := 0
  vecLen := 0
  lineLen := 0
  op0 := 0
  op1 := 0
  op2 := 0
  op3 := 0
  op4 := 0
  res0 := 0
  res1 := 0
  mem := []
  huffWork := HuffTree.empty
  record := Option.none
  parse := ParseVars.none
  bus := []
  readData := 0
  resets := 0
  draws := 0

/-- The machine right after hardware reset (R451), with the parameters of `Params.default` and no pending host event
(DESIGN CHOICE, notes/assumptions/1.md and 2.md). -/
def State.reset : State := State.resetWith Params.default

end Sys2Proof.Machine
end

