-- ==== Sys2Proof/Machine/Flags.lean ====
section
/-!
DEFINITION. The flag and status words: STATUS (10_state.md R35), REC_KIND and RECORD_VALID as views of the record
store (R52), and ERR_CTX (R37). The block has no other flag (R49).
-/

namespace Sys2Proof.Machine

/-- REC_KIND of a record (R35). -/
def recordKind : Record → Nat
  | .codebook _ => 1
  | .tdt _ => 2
  | .floor _ => 3
  | .residue _ => 4
  | .mapping _ => 5
  | .mode _ => 6
  | .setup _ => 7

/-- STATUS.RECORD_VALID (R35, R52). -/
def State.recordValid (s : State) : Bool := s.record.isSome

/-- STATUS.REC_KIND; 0 when RECORD_VALID = 0 (R35). -/
def State.recKind (s : State) : Nat :=
  match s.record with
  | none => 0
  | some r => recordKind r

/-- STATUS.BUSY (R35). -/
def State.busy (s : State) : Bool := s.phase == .busy

/-- The bit `b` at position `n` of a word. -/
def bitAt (b : Bool) (n : Nat) : Nat := if b then 2 ^ n else 0

/-- The STATUS word as the host reads it; reserved bits read 0 (R35). -/
def State.statusWord (s : State) : Word :=
  Word.low (bitAt s.busy 0 + bitAt s.done 1 + bitAt s.err 2 + bitAt s.recordValid 3 + bitAt s.hostFault 4 +
    256 * s.recKind)

/-- The ERR_CTX word: STAGE in [3:0], IN_COUNT in bit 4, INDEX in [15:8] (R37). -/
def ErrCtx.word (c : ErrCtx) : BitVec 16 :=
  BitVec.ofNat 16 (c.stage.code + bitAt c.inCount 4 + 256 * (c.index % 256))

/-- How many records of a stage's list are decoded: the index of the one being decoded (R360). -/
def headerCount (h : SetupHeader) : Stage → Nat
  | .codebook => h.codebooks.length
  | .tdt => h.timeDomainTransforms.length
  | .floor => h.floors.length
  | .residue => h.residues.length
  | .mapping => h.mappings.length
  | .mode => h.modes.length
  | .outside => 0
  | .framing => 0

/-- The `ctx` current at a point of a decode command: INDEX is the record's index within its list, 0 for a standalone
record command and in a count field (R37, R360, R365). -/
def ParseVars.ctx (v : ParseVars) : ErrCtx where
  stage := v.stage
  inCount := v.point == .setupCount
  index := if v.inSetup then (if v.point == .setupCount then 0 else headerCount v.header v.stage) else 0

end Sys2Proof.Machine
end

