-- ==== Sys2Proof/Machine/Ops.lean ====
section
/-!
DEFINITION. The named operations over memory and registers: byte and word access to the windows (20_memory.md R71 to
R75), the bit reader (40_bitreader.md R151), the start of a command (10_state.md R47), its completion (R48), its error
completion (60_exceptions.md R403), soft and hardware reset of the registers (70_reset_and_hazards.md R451).
-/

namespace Sys2Proof.Machine

/-! ## Memory -/

/-- The canonical form: offsets strictly rising. An unlisted offset has no written value, so no entry can equal it. -/
abbrev Memory.wf (m : Memory) : Prop := m.Pairwise (fun c d => c.1 < d.1)

/-- The written byte at an offset, if there is one. -/
def Memory.get? : Memory → Nat → Option Byte
  | [], _ => none
  | (k, v) :: rest, a => if k = a then some v else Memory.get? rest a

/-- Write one byte, keeping the canonical form. -/
def Memory.set : Memory → Nat → Byte → Memory
  | [], a, v => [(a, v)]
  | (k, w) :: rest, a, v =>
    if a < k then (a, v) :: (k, w) :: rest
    else if a = k then (a, v) :: rest
    else (k, w) :: Memory.set rest a v

/-- The byte at an offset: what was written there, else the draw of R451. -/
def Memory.byte (m : Memory) (epoch a : Nat) : Byte := (m.get? a).getD (Config.memDraw epoch a)

/-- The 32-bit element at an offset, in little-endian lanes (20_memory.md R73, R74). -/
def Memory.word (m : Memory) (epoch a : Nat) : Word :=
  m.byte epoch (a + 3) ++ m.byte epoch (a + 2) ++ m.byte epoch (a + 1) ++ m.byte epoch a

/-- Byte lane `j` of a word (R73: "byte `4k+j` in word bits `[8j+7:8j]`"). -/
def lane (w : Word) (j : Nat) : Byte := w.extractLsb' (8 * j) 8

/-- Write a 32-bit element, in little-endian lanes (R73, R74). -/
def Memory.setWord (m : Memory) (a : Nat) (w : Word) : Memory :=
  (((m.set a (lane w 0)).set (a + 1) (lane w 1)).set (a + 2) (lane w 2)).set (a + 3) (lane w 3)

/-- The offsets of the windows (R71). -/
def vecBase : Nat := 0x00001000
def lineBase : Nat := 0x00010000
def huffBase : Nat := 0x00100000
def recBase : Nat := 0x01000000
def inBase : Nat := 0x10000000

/-- The byte of a window at an offset. -/
def State.byteAt (s : State) (a : Nat) : Byte := s.mem.byte s.resets a

/-- The word of a window at an offset. -/
def State.wordAt (s : State) (a : Nat) : Word := s.mem.word s.resets a

/-- `v[i]`: VEC_MEM element `i`, unsigned (R74). -/
def State.vecElem (s : State) (i : Nat) : Nat := (s.wordAt (vecBase + 4 * i)).toNat

/-- The offset of LINE_BUF element `x` (R74). -/
def lineOffset (x : Nat) : Nat := lineBase + 4 * x

/-- LINE_BUF element `x`. -/
def State.lineElem (s : State) (x : Nat) : Word := s.wordAt (lineOffset x)

/-! ## The bit reader -/

/-- What the bit reader reads from: IN_MEM and IN_LEN (R150). -/
structure Payload where
  mem : Memory
  epoch : Nat
  len : Nat
deriving DecidableEq, Repr

/-- The payload of a state: IN_MEM bytes `0..IN_LEN` (R150). -/
def State.payload (s : State) : Payload := ⟨s.mem, s.resets, s.inLen.toNat⟩

/-- Bit `q` of the stream is bit `q mod 8` of byte `q div 8` (20_memory.md R77). -/
def Payload.bit (p : Payload) (q : Nat) : Bool := (p.mem.byte p.epoch (inBase + q / 8)).getLsbD (q % 8)

/-- The `n`-bit field at bit `q`, least significant bit first (R78). -/
def Payload.field (p : Payload) (q : Nat) : Nat → Nat
  | 0 => 0
  | n + 1 => (p.bit q).toNat + 2 * p.field (q + 1) n

/-- The reader's moving parts: the cursor (BIT_POS, R38) and the context an error would carry (R37). -/
structure Cursor where
  pos : Nat
  ctx : ErrCtx
deriving DecidableEq, Repr

/-- A decoder: it moves the cursor and answers a value, or raises at the cursor it has reached (R153(d)). -/
abbrev Parser (α : Type) := EStateM Raise Cursor α

/-- `raise E(info, aux)` (00_scope.md R9). -/
def raise {α : Type} (kind : ErrKind) (info aux : Nat) : Parser α := fun c => .error ⟨kind, info, aux⟩ c

/-- `ctx <- …` (R360, R365). -/
def setCtx (stage : Stage) (inCount : Bool) (index : Nat) : Parser Unit :=
  fun c => .ok () { c with ctx := ⟨stage, inCount, index⟩ }

/-- `read(n)` (R151, R152): a zero-width read answers 0 and never raises; a read past the payload raises
PrematureEndOfData with the cursor unchanged. -/
def read (p : Payload) (n : Nat) : Parser Nat := fun c =>
  if n = 0 then .ok 0 c
  else if c.pos + n > 8 * p.len then .error ⟨.prematureEndOfData, c.pos, n⟩ c
  else .ok (p.field c.pos n) { c with pos := c.pos + n }

/-- `flag()` is `read(1) == 1` (R155). -/
def flag (p : Payload) : Parser Bool := do
  let v ← read p 1
  return v == 1

/-- `[f(i), f(i+1), …]`, `n` of them in order (R9: `for i in a..b`). -/
def times {α : Type} (f : Nat → Parser α) : Nat → Nat → Parser (List α)
  | 0, _ => pure []
  | n + 1, i => do
    let a ← f i
    let rest ← times f n (i + 1)
    return a :: rest

/-- Whether a count is over a capacity; `none` is `∞` (00_scope.md R7). -/
def overCap (n : Nat) (cap : Option Nat) : Bool :=
  match cap with
  | none => false
  | some c => n > c

/-! ## The life of a command -/

/-- Command start: a host write of opcode `c` to CMD while IDLE (R47). Starting a command is also all there is to
returning from an error: "The next command's start clears STATUS.ERR and ERR_*" (60_exceptions.md R408). -/
def State.startCommand (s : State) (c : Byte) : State :=
  { s with
    cmd := c
    phase := .busy
    done := false
    err := false
    errCode := 0
    errInfo := 0
    errAux := 0
    errCtx := 0
    record := if isDecodeOpcode c then none else s.record
    parse := ParseVars.none }

/-- Completion without an error: the results are written, DONE is set and the engine is IDLE (R44, R48). The parse
variables "do not survive the command" (R63). -/
def State.complete (s : State) (res0 res1 : Word) : State :=
  { s with
    res0 := res0
    res1 := res1
    done := true
    phase := .idle
    parse := ParseVars.none }

/-- THE error completion (60_exceptions.md R403): what a command that executes `raise E(info, aux)` with the context
`ctx` leaves. RES0, RES1 and every window keep their values (R404). -/
def State.raiseError (s : State) (e : Raise) (ctx : ErrCtx) : State :=
  { s with
    errCode := e.kind.code
    errInfo := Word.low e.info
    errAux := Word.low e.aux
    errCtx := ctx.word
    err := true
    done := true
    phase := .idle
    parse := ParseVars.none }

/-- BIT_POS moved to a cursor (R48, R153). -/
def State.withBitPos (s : State) (pos : Nat) : State := { s with bitPos := Word.low pos }

/-- `emit R` (10_state.md R52). -/
def State.emit (s : State) (r : Record) : State := { s with record := some r }

/-- A decode command's end from what its decoder answered: the record is emitted and RES0 is the bits consumed, or the
error completion is taken with BIT_POS at the raise (R153(c) and (d)). -/
def State.endDecode (s : State) (start : Nat) : EStateM.Result Raise Cursor Record → State
  | .ok r c => ((s.withBitPos c.pos).emit r).complete (Word.low (c.pos - start)) 0
  | .error e c => (s.withBitPos c.pos).raiseError e c.ctx

/-! ## Reset -/

/-- The registers' part of a reset: every field of R451's soft-reset column but the memories. -/
def State.clearRegisters (s : State) : State :=
  { State.resetWith s.params with
    hostFault := s.hostFault
    mem := s.mem
    bus := s.bus
    readData := s.readData
    resets := s.resets
    draws := s.draws }

/-- Hardware reset (R450, R451): every piece of state takes its reset value, HOST_FAULT among them, and the memories
hold new draws. The host's own pending events and its last read value are not the block's. The block is out of reset
at the next host event (notes/assumptions/21.md). -/
def State.hardReset (s : State) : State :=
  { s.clearRegisters with
    hostFault := false
    mem := []
    resets := s.resets + 1 }

end Sys2Proof.Machine
end

