-- ==== Sys2Proof/Machine/Operands.lean ====
section
/-!
DEFINITION. The register file and the locations of the address map: which register an offset names (10_state.md R33),
what each reads and what a host write stores (R34 to R45), and the operand readings of 30_encoding.md R103.
-/

namespace Sys2Proof.Machine

/-- The registers of R33. -/
inductive Reg where
  | cmd
  | status
  | errCode
  | errInfo
  | errAux
  | errCtx
  | bitPos
  | inLen
  | audioChannels
  | vecLen
  | lineLen
  | ctrl
  | huffCount
  | op0
  | op1
  | op2
  | op3
  | op4
  | res0
  | res1
deriving DecidableEq, Repr

/-- The register map of R33. -/
def Reg.offset : Reg → Nat
  | .cmd => 0x00
  | .status => 0x04
  | .errCode => 0x08
  | .errInfo => 0x0C
  | .errAux => 0x10
  | .errCtx => 0x14
  | .bitPos => 0x18
  | .inLen => 0x1C
  | .audioChannels => 0x20
  | .vecLen => 0x24
  | .lineLen => 0x28
  | .ctrl => 0x2C
  | .huffCount => 0x30
  | .op0 => 0x40
  | .op1 => 0x44
  | .op2 => 0x48
  | .op3 => 0x4C
  | .op4 => 0x50
  | .res0 => 0x60
  | .res1 => 0x64

/-- Every register. -/
def Reg.all : List Reg :=
  [.cmd, .status, .errCode, .errInfo, .errAux, .errCtx, .bitPos, .inLen, .audioChannels, .vecLen, .lineLen, .ctrl,
   .huffCount, .op0, .op1, .op2, .op3, .op4, .res0, .res1]

/-- The register at an offset of the register page, if R33 lists one. -/
def regAt (offset : Nat) : Option Reg := Reg.all.find? (fun r => r.offset == offset)

/-- HUFF_COUNT: the node count of HUFF_WORK (R50). -/
def State.huffCount (s : State) : Word := Word.low s.huffWork.length

/-- What a register reads; unimplemented bits read 0 (R45) and CTRL reads 0 (R42). -/
def State.readReg (s : State) : Reg → Word
  | .cmd => s.cmd.zeroExtend 32
  | .status => s.statusWord
  | .errCode => s.errCode.zeroExtend 32
  | .errInfo => s.errInfo
  | .errAux => s.errAux
  | .errCtx => s.errCtx.zeroExtend 32
  | .bitPos => s.bitPos
  | .inLen => s.inLen
  | .audioChannels => s.audioChannels.zeroExtend 32
  | .vecLen => s.vecLen
  | .lineLen => s.lineLen
  | .ctrl => 0
  | .huffCount => s.huffCount
  | .op0 => s.op0
  | .op1 => s.op1
  | .op2 => s.op2
  | .op3 => s.op3
  | .op4 => s.op4
  | .res0 => s.res0
  | .res1 => s.res1

/-- A location of the address map (20_memory.md R70, R71, R83). -/
inductive Loc where
  | reg (r : Reg)
  | vec (i : Nat)
  | line (i : Nat)
  | huff (i w : Nat)
  | recWord (i : Nat)
  | inMem (i : Nat)
  | nothing
deriving DecidableEq, Repr

/-- The location at an offset. What lies at or beyond a window's capacity, like an offset outside every window, reads 0
and ignores writes (R71, R83). -/
def locate (p : Params) (offset : Nat) : Loc :=
  if offset < 0x100 then
    match regAt offset with
    | some r => .reg r
    | none => .nothing
  else if vecBase ≤ offset ∧ offset < vecBase + 4 * p.vecCap then .vec ((offset - vecBase) / 4)
  else if lineBase ≤ offset ∧ offset < lineBase + 4 * p.lineCap then .line ((offset - lineBase) / 4)
  else if huffBase ≤ offset ∧ offset < huffBase + 16 * p.huffCap then
    .huff ((offset - huffBase) / 16) ((offset - huffBase) % 16 / 4)
  else if recBase ≤ offset ∧ offset < 0x02000000 then .recWord ((offset - recBase) / 4)
  else if inBase ≤ offset ∧ offset < inBase + p.inCap then .inMem (offset - inBase)
  else .nothing

/-- A child index as a word: 0xFFFF_FFFF when there is none (R75). -/
def childWord : Option Nat → Word
  | none => 0xFFFFFFFF
  | some c => Word.low c

/-- The four words of a node (R75). -/
def nodeWord (n : HuffNode) (w : Nat) : Word :=
  match n, w with
  | .internal l r, 0 => Word.low (bitAt l.isSome 1 + bitAt r.isSome 2)
  | .internal l _, 1 => childWord l
  | .internal _ r, 2 => childWord r
  | .internal _ _, _ => 0
  | .leaf _, 0 => 1
  | .leaf _, 1 => 0xFFFFFFFF
  | .leaf _, 2 => 0xFFFFFFFF
  | .leaf symbol, _ => symbol

/-- Word `w` of node `i` of HUFF_WORK; nodes at or beyond HUFF_COUNT read as zero words (R75). -/
def State.huffWord (s : State) (i w : Nat) : Word :=
  match s.huffWork[i]? with
  | some n => nodeWord n w
  | none => 0

/-- A payload byte as the host reads it: 0 at or beyond IN_CAP (R71). -/
def State.inByte (s : State) (i : Nat) : Byte := if i < s.params.inCap then s.byteAt (inBase + i) else 0

/-- What a location reads while the engine is IDLE (R71 to R76). Reads have no side effect (R81). -/
def State.readLoc (s : State) : Loc → Word
  | .reg r => s.readReg r
  | .vec i => s.wordAt (vecBase + 4 * i)
  | .line i => s.lineElem i
  | .huff i w => s.huffWord i w
  | .recWord i =>
    match s.record with
    | none => 0
    | some r => Config.recLayout r i
  | .inMem i => s.inByte (i + 3) ++ s.inByte (i + 2) ++ s.inByte (i + 1) ++ s.inByte i
  | .nothing => 0

/-- Write lane `j` of a word to payload byte `i + j`, unless it lies at or beyond IN_CAP (R71, R73). -/
def storeInByte (p : Params) (i : Nat) (w : Word) (m : Memory) (j : Nat) : Memory :=
  if i + j < p.inCap then m.set (inBase + i + j) (lane w j) else m

/-- A host write to a register other than CMD and CTRL while the engine is IDLE: reserved bits are ignored and
read-only registers do not change (R45). -/
def State.writeReg (s : State) (v : Word) : Reg → State
  | .bitPos => { s with bitPos := v }
  | .inLen => { s with inLen := v }
  | .audioChannels => { s with audioChannels := v.setWidth 8 }
  | .vecLen => { s with vecLen := v }
  | .lineLen => { s with lineLen := v }
  | .op0 => { s with op0 := v }
  | .op1 => { s with op1 := v }
  | .op2 => { s with op2 := v }
  | .op3 => { s with op3 := v }
  | .op4 => { s with op4 := v }
  | .cmd => s
  | .ctrl => s
  | .status => s
  | .errCode => s
  | .errInfo => s
  | .errAux => s
  | .errCtx => s
  | .huffCount => s
  | .res0 => s
  | .res1 => s

/-- AUDIO_CHANNELS as the count `ch` (R41). -/
def State.channels (s : State) : Nat := s.audioChannels.toNat

end Sys2Proof.Machine
end

