-- ==== Sys2Proof/Machine/BitReader.lean ====
section
/-!
DEFINITION. READ_BITS (40_bitreader.md R154) and the start checks that the bitstream commands share
(60_exceptions.md R411).
-/

namespace Sys2Proof.Machine

/-- A start check or an operand check that fails: ContractViolation with its reason (R402), context 0 (R411). -/
def State.violation (s : State) (reason aux : Nat) : State :=
  s.raiseError ⟨.contractViolation, reason, aux⟩ ErrCtx.none

/-- READ_BITS: IN_LEN against IN_CAP, then `n ≤ 32`, then `read(n)`. -/
def execReadBits (s : State) : Host.Outcome State Fault Refusal :=
  .next <|
    if s.inLen.toNat > s.params.inCap then s.violation 8 s.inLen.toNat
    else if s.op0.toNat > 32 then s.violation 1 s.op0.toNat
    else
      match read s.payload s.op0.toNat ⟨s.bitPos.toNat, ErrCtx.none⟩ with
      | .ok v c => (s.withBitPos c.pos).complete (Word.low v) 0
      | .error e c => s.raiseError e c.ctx

end Sys2Proof.Machine
end

