-- ==== Sys2Proof/Machine/Huffman.lean ====
section
/-!
DEFINITION. The canonical Huffman tree builder and its commands (42_huffman.md).
-/

namespace Sys2Proof.Machine

/-- A side of an internal node: `false` is left, `true` right, as in the path bits of 10_state.md R51. -/
def nodeChild (n : HuffNode) (side : Bool) : Option Nat :=
  match n with
  | .internal l r => if side then r else l
  | .leaf _ => none

/-- `child(T, n, side)`. -/
def childOf (t : HuffTree) (n : Nat) (side : Bool) : Option Nat := (t[n]?).bind (fun x => nodeChild x side)

/-- `set child(T, n, side) <- k`. -/
def setChild (t : HuffTree) (n : Nat) (side : Bool) (k : Nat) : HuffTree :=
  match t[n]? with
  | some (.internal l r) => t.set n (if side then .internal l (some k) else .internal (some k) r)
  | _ => t

/-- Whether node `c` of the tree is `Internal`. -/
def isInternalAt (t : HuffTree) (c : Nat) : Bool :=
  match t[c]? with
  | some (.internal _ _) => true
  | _ => false

/-- A successful insertion: the new tree, the new leaf's index, and the leaf's path below the node the search began at
(R211, R216). -/
structure Inserted where
  tree : HuffTree
  leaf : Nat
  path : List Bool
deriving DecidableEq, Repr

/-- Put the branch taken before the rest of the path. -/
def Inserted.under (side : Bool) (r : Inserted) : Inserted := { r with path := side :: r.path }

/-- `alloc(T, node)` hung under node `n` (R211): the node is appended and its index stored as the child. -/
def allocUnder (t : HuffTree) (n : Nat) (side : Bool) (node : HuffNode) : HuffTree :=
  setChild (t ++ [node]) n side t.length

/-- `ins(T, n, rem, s)` of R211: left before right, `rem` levels still to go. One side is tried by what its child slot
holds: at the last level a free slot takes the leaf; above it a free slot takes a new internal node and a child that is
`Internal` is searched. -/
def ins (s : Word) : Nat → HuffTree → Nat → Option Inserted
  | 0, _, _ => none
  | 1, t, n =>
    if childOf t n false = none then some ⟨allocUnder t n false (.leaf s), t.length, [false]⟩
    else if childOf t n true = none then some ⟨allocUnder t n true (.leaf s), t.length, [true]⟩
    else none
  | rem + 2, t, n =>
    let try1 (side : Bool) : Option Inserted :=
      match childOf t n side with
      | none => (ins s (rem + 1) (allocUnder t n side (.internal none none)) t.length).map (Inserted.under side)
      | some c => if isInternalAt t c then (ins s (rem + 1) t c).map (Inserted.under side) else none
    match try1 false with
    | some r => some r
    | none => try1 true

/-- `add_node(T, L, s)` (R211); `none` is HuffmanNoRoom, and the tree is then unchanged (R212). -/
def addNode (t : HuffTree) (length : Nat) (s : Word) : Option Inserted := ins s length t 0

/-- The codeword value of a path: first branch most significant (R216). -/
def codewordValue (path : List Bool) : Nat := path.foldl (fun v b => 2 * v + b.toNat) 0

/-- `build_tree(lengths)` from symbol `sym` on (R218). -/
def buildTree (nodeCap : Option Nat) : Nat → List (Option Nat) → HuffTree → Parser HuffTree
  | _, [], t => pure t
  | sym, none :: rest, t => buildTree nodeCap (sym + 1) rest t
  | sym, some l :: rest, t =>
    match addNode t l (Word.low sym) with
    | none => raise .huffmanNoRoom sym l
    | some r =>
      if overCap r.tree.length nodeCap then raise .capacityExceeded r.tree.length 3
      else buildTree nodeCap (sym + 1) rest r.tree

/-- HUFF_CLEAR (R214). -/
def execHuffClear (s : State) : Host.Outcome State Fault Refusal :=
  .next (({ s with huffWork := HuffTree.empty }).complete 0 0)

/-- HUFF_ADD_NODE (R215): the slot is found before the capacity is checked. -/
def execHuffAddNode (s : State) : Host.Outcome State Fault Refusal :=
  .next <|
    if s.op0.toNat < 1 ∨ s.op0.toNat > 32 then s.violation 2 s.op0.toNat
    else
      match addNode s.huffWork s.op0.toNat s.op1 with
      | none => s.raiseError ⟨.huffmanNoRoom, s.op1.toNat, s.op0.toNat⟩ ErrCtx.none
      | some r =>
        if r.tree.length > s.params.huffCap then
          s.raiseError ⟨.capacityExceeded, r.tree.length, 4⟩ ErrCtx.none
        else
          ({ s with huffWork := r.tree }).complete (Word.low r.leaf) (Word.low (codewordValue r.path))

end Sys2Proof.Machine
end

