-- ==== Sys2Proof/Machine/Numeric.lean ====
section
/-!
DEFINITION. The numeric utilities and their commands (41_numeric.md). Arithmetic is exact on unbounded integers
(00_scope.md R8); `Int.tdiv` is the truncating division.
-/

namespace Sys2Proof.Machine

/-! ## ilog -/

/-- `ilog(x)`: 0 for 0, else `floor(log2(x)) + 1` (R170). -/
def ilog (x : Nat) : Nat := if x = 0 then 0 else Nat.log2 x + 1

/-- ILOG (R171). -/
def execIlog (s : State) : Host.Outcome State Fault Refusal :=
  .next (s.complete (Word.low (ilog s.op0.toNat)) 0)

/-! ## float32_unpack -/

/-- `num / 2^k` rounded to the nearest integer, ties to even. -/
def roundHalfEven (num k : Nat) : Nat :=
  let q := num / 2 ^ k
  let r := num % 2 ^ k
  if 2 * r > 2 ^ k ∨ (2 * r = 2 ^ k ∧ q % 2 = 1) then q + 1 else q

/-- RNE32 of `m · 2^(e − 788)` for a non-zero `m` with magnitude below 2^128 (R173), as a pattern without its sign.
The rounding unit is `2^(u − 788)` with `u = max(ilog m − 1 + e − 23, 639)`: 24 significant bits, or the subnormal
unit 2^−149. -/
def rne32 (m e : Nat) : Nat :=
  let u := max (ilog m - 1 + e - 23) 639
  let q := if u ≤ e then m * 2 ^ (e - u) else roundHalfEven m (u - e)
  (u - 639) * 2 ^ 23 + q

/-- The three fields of a packed float (R172). -/
def packedSign (x : Word) : Bool := x.getLsbD 31
def packedExponent (x : Word) : Nat := x.toNat / 2 ^ 21 % 2 ^ 10
def packedMantissa (x : Word) : Nat := x.toNat % 2 ^ 21

/-- `float32_unpack(x)` (R173): the binary32 pattern, or `none` where it raises FloatNonFinite. -/
def float32Unpack (x : Word) : Option Word :=
  let m := packedMantissa x
  let e := packedExponent x
  if m = 0 then some 0
  else if ilog m - 1 + e ≥ 788 + 128 then none
  else some (Word.low ((if packedSign x then 2 ^ 31 else 0) + rne32 m e))

/-- FLOAT32_UNPACK (R174). -/
def execFloat32Unpack (s : State) : Host.Outcome State Fault Refusal :=
  .next <|
    match float32Unpack s.op0 with
    | some v => s.complete v 0
    | none => s.raiseError ⟨.floatNonFinite, s.op0.toNat, 0⟩ ErrCtx.none

/-! ## lookup1_values -/

/-- Whether `r ^ d ≤ n` for `d ≥ 1` and `n < 2^33`: an exponent above 33 decides nothing more, since `2^33 > n`. -/
def powLe (r d n : Nat) : Bool := r ^ (min d 33) ≤ n

/-- The greatest `r` with `r ^ d ≤ n`, found from its highest bit down; `r` is what the bits above `k` have given. -/
def lookupSearch (n d : Nat) : Nat → Nat → Nat
  | 0, r => r
  | k + 1, r => lookupSearch n d k (if powLe (r + 2 ^ k) d n then r + 2 ^ k else r)

/-- `lookup1_values(entries, dimensions)` for `entries < 2^32` (R176); `none` where it raises DegenerateLookup. -/
def lookup1Values (entries dimensions : Nat) : Option Nat :=
  if dimensions = 0 then (if entries = 0 then some 0 else none)
  else some (lookupSearch entries dimensions 32 0)

/-- LOOKUP1_VALUES (R177). -/
def execLookup1Values (s : State) : Host.Outcome State Fault Refusal :=
  .next <|
    match lookup1Values s.op0.toNat s.op1.toNat with
    | some r => s.complete (Word.low r) 0
    | none => s.raiseError ⟨.degenerateLookup, s.op0.toNat, s.op1.toNat⟩ ErrCtx.none

/-! ## low_neighbor and high_neighbor -/

/-- `best` of R180 after the indices below `n`: the candidate closest in value to `v[x]`, the lowest index among equals.
`beats a b` says that the candidate value `a` replaces the best value `b`; `fits a` that `a` is a candidate. -/
def neighborScan (v : Nat → Nat) (fits : Nat → Bool) (beats : Nat → Nat → Bool) : Nat → Option Nat
  | 0 => none
  | n + 1 =>
    match neighborScan v fits beats n with
    | none => if fits (v n) then some n else none
    | some b => if fits (v n) && beats (v n) (v b) then some n else some b

/-- `low_neighbor(v, x)` (R179, R180). -/
def lowNeighbor (v : Nat → Nat) (x : Nat) : Option Nat :=
  neighborScan v (fun a => a < v x) (fun a b => a > b) x

/-- `high_neighbor(v, x)` (R179, R180). -/
def highNeighbor (v : Nat → Nat) (x : Nat) : Option Nat :=
  neighborScan v (fun a => a > v x) (fun a b => a < b) x

/-- What LOW_NEIGHBOR and HIGH_NEIGHBOR share (R182, R183): the start checks, then the search; `which` is the ERR_AUX of
NoNeighbor. -/
def State.neighbor (s : State) (search : (Nat → Nat) → Nat → Option Nat) (which : Nat) : State :=
  if s.vecLen.toNat > s.params.vecCap then s.violation 9 s.vecLen.toNat
  else if s.op0.toNat ≥ s.vecLen.toNat then s.violation 3 s.op0.toNat
  else
    match search s.vecElem s.op0.toNat with
    | some n => s.complete (Word.low n) 0
    | none => s.raiseError ⟨.noNeighbor, s.op0.toNat, which⟩ ErrCtx.none

/-- LOW_NEIGHBOR (R182). -/
def execLowNeighbor (s : State) : Host.Outcome State Fault Refusal := .next (s.neighbor lowNeighbor 0)

/-- HIGH_NEIGHBOR (R183). -/
def execHighNeighbor (s : State) : Host.Outcome State Fault Refusal := .next (s.neighbor highNeighbor 1)

/-! ## render_point and render_line -/

/-- `render_point(x0, y0, x1, y1, x)` (R184); `none` where `adx = 0`. -/
def renderPoint (x0 y0 x1 y1 x : Int) : Option Int :=
  let dy := y1 - y0
  let adx := x1 - x0
  let ady : Int := dy.natAbs
  let off := (ady * (x - x0)).tdiv adx
  if adx = 0 then none
  else some (if dy < 0 then y0 - off else y0 + off)

/-- Whether an integer is an i32 (R185). -/
def fitsI32 (y : Int) : Bool := -2 ^ 31 ≤ y && y < 2 ^ 31

/-- RENDER_POINT (R185). -/
def execRenderPoint (s : State) : Host.Outcome State Fault Refusal :=
  .next <|
    match renderPoint s.op0.i32 s.op1.i32 s.op2.i32 s.op3.i32 s.op4.i32 with
    | none => s.violation 4 0
    | some y => if fitsI32 y then s.complete (Word.ofI32 y) 0 else s.violation 5 0

/-- The loop of render_line (R187) for `n` more elements, the next at `x`, after one at height `y` with error `err`. -/
def lineLoop (base sy ady adx : Int) : Nat → Nat → Int → Int → List (Nat × Int)
  | 0, _, _, _ => []
  | n + 1, x, y, err =>
    if err + ady ≥ adx then (x, y + sy) :: lineLoop base sy ady adx n (x + 1) (y + sy) (err + ady - adx)
    else (x, y + base) :: lineLoop base sy ady adx n (x + 1) (y + base) (err + ady)

/-- The element writes of `render_line(x0, y0, x1, y1, buf)`, in order (R187): element and value. -/
def renderLine (x0 : Nat) (y0 : Int) (x1 : Nat) (y1 : Int) : List (Nat × Int) :=
  let dy := y1 - y0
  let adx : Int := (x1 : Int) - x0
  let base := dy.tdiv adx
  let sy := if dy < 0 then base - 1 else base + 1
  let ady : Int := dy.natAbs - base.natAbs * adx
  (x0, y0) :: lineLoop base sy ady adx (x1 - x0 - 1) (x0 + 1) y0 0

/-- `MemWrite(LINE_BUF, x, 32, y)` for each element write, in order (R186). -/
def writeLine (m : Memory) (writes : List (Nat × Int)) : Memory :=
  writes.foldl (fun m w => m.setWord (lineOffset w.1) (Word.ofI32 w.2)) m

/-- `0 ≤ x0 < x1 ≤ LINE_LEN` (R186). -/
def State.lineInBounds (s : State) : Bool :=
  0 ≤ s.op0.i32 && s.op0.i32 < s.op2.i32 && s.op2.i32 ≤ s.lineLen.toNat

/-- The element writes the operand registers ask RENDER_LINE for (R186). -/
def State.lineWrites (s : State) : List (Nat × Int) :=
  renderLine s.op0.i32.toNat s.op1.i32 s.op2.i32.toNat s.op3.i32

/-- RENDER_LINE (R186): every check comes before the first write. -/
def execRenderLine (s : State) : Host.Outcome State Fault Refusal :=
  .next <|
    if s.lineLen.toNat > s.params.lineCap then s.violation 10 s.lineLen.toNat
    else if s.lineInBounds then ({ s with mem := writeLine s.mem s.lineWrites }).complete 0 0
    else s.violation 6 0

end Sys2Proof.Machine
end

