-- ==== Sys2Proof/Machine/Codebook.lean ====
section
/-!
DEFINITION. The codebook decoder (43_codebook.md). Its steps are separate definitions in the source's order: the sync
(R231), the sizes and the length table (R232 to R236), the lookup type with its table (R237, R238), the Huffman tree
(R239).
-/

namespace Sys2Proof.Machine

/-- Step 1 (R231). -/
def codebookSync (p : Payload) : Parser Unit := do
  let sync ← read p 24
  if sync ≠ 0x564342 then raise .syncMismatch sync 0

/-- One entry of an unordered table (R233, R234). -/
def lengthEntry (p : Payload) (sparse : Bool) : Parser (Option Nat) := do
  let used ← if sparse then flag p else pure true
  if used then
    let raw ← read p 5
    return some (raw + 1)
  else
    return none

/-- One `number` of the ordered loop, with the checks before and after it (R236). -/
def orderedField (p : Payload) (entries entry length : Nat) : Parser Nat := do
  if length > 32 then raise .codewordLengthOverflow length entry
  let number ← read p (ilog (entries - entry))
  if entry + number > entries then raise .countOverflow (entry + number) entries
  return number

/-- The ordered loop (R236) at `current_length = 33 − room`: it ends after at most 32 iterations, since
`orderedField` refuses a length of 33. -/
def orderedRuns (p : Payload) (entries : Nat) : Nat → Nat → Parser (List (Option Nat))
  | 0, entry =>
    if entry < entries then do
      let _ ← orderedField p entries entry 33
      return []
    else pure []
  | room + 1, entry =>
    if entry < entries then do
      let number ← orderedField p entries entry (32 - room)
      let rest ← orderedRuns p entries room (entry + number)
      return List.replicate number (some (32 - room)) ++ rest
    else pure []

/-- The sizes of step 2 and the `ordered` flag of step 3 (R232, R233). -/
def codebookSizes (params : Params) (p : Payload) : Parser (Nat × Nat × Bool) := do
  let dimensions ← read p 16
  let entries ← read p 24
  if overCap entries params.entryCap then raise .capacityExceeded entries 1
  let ordered ← flag p
  return (dimensions, entries, ordered)

/-- The unordered table of step 3 (R233). -/
def unorderedTable (p : Payload) (dimensions entries : Nat) : Parser CodebookHead := do
  let sparse ← flag p
  let lengths ← times (fun _ => lengthEntry p sparse) entries 0
  return ⟨dimensions, entries, false, some sparse, lengths⟩

/-- Steps 2 and 3 (R232 to R236). -/
def codebookTable (params : Params) (p : Payload) : Parser CodebookHead := do
  let (dimensions, entries, ordered) ← codebookSizes params p
  if ordered then
    let raw ← read p 5
    let lengths ← orderedRuns p entries (33 - (raw + 1)) 0
    return ⟨dimensions, entries, true, none, lengths⟩
  else
    unorderedTable p dimensions entries

/-- `float32_unpack(read(32))` as a field (30_encoding.md R106, 43_codebook.md R238). -/
def floatField (p : Payload) : Parser Word := do
  let x ← read p 32
  match float32Unpack (Word.low x) with
  | some v => return v
  | none => raise .floatNonFinite x 0

/-- `lookup_values` of R238. -/
def lookupValues (lookupType entries dimensions : Nat) : Parser Nat :=
  if lookupType = 1 then
    match lookup1Values entries dimensions with
    | some n => pure n
    | none => raise .degenerateLookup entries dimensions
  else pure (entries * dimensions)

/-- The vector lookup table of lookup types 1 and 2 (R238). -/
def vectorTable (params : Params) (p : Payload) (lookupType entries dimensions : Nat) : Parser VectorLookupTable := do
  let minimumValue ← floatField p
  let deltaValue ← floatField p
  let raw ← read p 4
  let sequenceP ← flag p
  let count ← lookupValues lookupType entries dimensions
  if overCap count params.multCap then raise .capacityExceeded count 2
  let multiplicands ← times (fun _ => read p (raw + 1)) count 0
  return ⟨minimumValue, deltaValue, raw + 1, sequenceP, count, multiplicands⟩

/-- Step 4 (R237): the lookup type and its table. -/
def codebookLookup (params : Params) (p : Payload) (entries dimensions : Nat) :
    Parser (Nat × Option VectorLookupTable) := do
  let lookupType ← read p 4
  if lookupType = 0 then
    return (0, none)
  else if lookupType = 1 ∨ lookupType = 2 then
    let t ← vectorTable params p lookupType entries dimensions
    return (lookupType, some t)
  else
    raise .invalidEnumValue lookupType 1

/-- Step 5 (R239): the tree is built last, and the record is complete. -/
def codebookTree (params : Params) (h : CodebookHead) (lookupType : Nat) (t : Option VectorLookupTable) :
    Parser Codebook := do
  let tree ← buildTree params.nodeCap 0 h.codewordLengths HuffTree.empty
  return ⟨h.dimensions, h.entries, h.ordered, h.sparse, h.codewordLengths, lookupType, t, tree⟩

/-- `decode_codebook()` (R230). -/
def decodeCodebook (params : Params) (p : Payload) : Parser Codebook := do
  codebookSync p
  let h ← codebookTable params p
  let (lookupType, t) ← codebookLookup params p h.entries h.dimensions
  codebookTree params h lookupType t

end Sys2Proof.Machine
end

