-- ==== Sys2Proof/WellFormed.lean ====
section
/-!
DEFINITION. Well-formedness: of the parameters (00_scope.md R7), of a Huffman tree (10_state.md R51) and of the
record types (R53 to R62, with the properties the family files derive: R241, R275, R305, R328, R343).
An instruction has no operand field, so every instruction is well formed.
-/

namespace Sys2Proof

/-- R100: "Operands are not part of the command word", and a bitstream tag is one fixed value: there is no field
that could be out of range. -/
abbrev Instr.wf (_ : Instr) : Prop := True

/-- The ranges of 00_scope.md R7. -/
abbrev Params.wf (p : Params) : Prop :=
  (1 ≤ p.inCap ∧ p.inCap ≤ 2 ^ 28) ∧ (65 ≤ p.vecCap ∧ p.vecCap ≤ 1024) ∧
  (1 ≤ p.lineCap ∧ p.lineCap ≤ 16384) ∧ (1 ≤ p.huffCap ∧ p.huffCap ≤ 65536) ∧
  (∀ e ∈ p.entryCap, e < 2 ^ 24)

/-- The child indices of a node, left before right. -/
def HuffNode.children : HuffNode → List Nat
  | .internal l r => l.toList ++ r.toList
  | .leaf _ => []

/-- Whether a node is `Internal`. -/
def HuffNode.isInternal : HuffNode → Bool
  | .internal _ _ => true
  | .leaf _ => false

/-- R51: the root is `Internal`; each child index names a node of the list with a larger index than its parent;
every node other than the root is the child of exactly one node. -/
abbrev HuffTree.wf (t : HuffTree) : Prop :=
  (t.head?.any HuffNode.isInternal = true) ∧
  (∀ i < t.length, ∀ c ∈ ((t[i]?.map HuffNode.children).getD []), i < c ∧ c < t.length) ∧
  (∀ j < t.length, 0 < j → (t.flatMap HuffNode.children).count j = 1)

/-- R54: the cardinality of the multiplicand list. Type 1 is `lookup1_values` (41_numeric.md R176, R178), type 2
the exact product. -/
abbrev VectorLookupTable.countOk (v : VectorLookupTable) (lookupType entries dimensions : Nat) : Prop :=
  if lookupType = 1 then
    if dimensions = 0 then entries = 0 ∧ v.lookupValues = 0
    else v.lookupValues ^ dimensions ≤ entries ∧ entries < (v.lookupValues + 1) ^ dimensions
  else v.lookupValues = entries * dimensions

/-- R54. -/
abbrev VectorLookupTable.wf (v : VectorLookupTable) : Prop :=
  (1 ≤ v.valueBits ∧ v.valueBits ≤ 16) ∧ v.multiplicands.length = v.lookupValues ∧
  (∀ m ∈ v.multiplicands, m < 2 ^ v.valueBits)

/-- R53, R241 (the tree's leaves are stated apart from this). -/
abbrev Codebook.wf (c : Codebook) : Prop :=
  c.dimensions < 2 ^ 16 ∧ c.entries < 2 ^ 24 ∧
  (c.sparse = none ↔ c.ordered = true) ∧
  c.codewordLengths.length = c.entries ∧
  (∀ l ∈ c.codewordLengths, (c.ordered = true → l ≠ none) ∧ ∀ n ∈ l, 1 ≤ n ∧ n ≤ 32) ∧
  c.lookupType ≤ 2 ∧
  (c.vectorLookupTable = none ↔ c.lookupType = 0) ∧
  (∀ v ∈ c.vectorLookupTable, v.wf ∧ v.countOk c.lookupType c.entries c.dimensions) ∧
  HuffTree.wf c.huffmanTree

/-- R55. -/
abbrev Floor0.wf (f : Floor0) : Prop :=
  f.order < 2 ^ 8 ∧ f.rate < 2 ^ 16 ∧ f.barkMapSize < 2 ^ 16 ∧ f.amplitudeBits ≤ 63 ∧
  f.amplitudeOffset < 2 ^ 8 ∧ (1 ≤ f.numberOfBooks ∧ f.numberOfBooks ≤ 16) ∧
  f.bookList.length = f.numberOfBooks ∧ (∀ b ∈ f.bookList, b < 2 ^ 8)

/-- R57. -/
abbrev FloorClass.wf (c : FloorClass) : Prop :=
  (1 ≤ c.dimensions ∧ c.dimensions ≤ 8) ∧ c.subclasses ≤ 3 ∧
  (c.masterbooks = none ↔ c.subclasses = 0) ∧ (∀ m ∈ c.masterbooks, m < 2 ^ 8) ∧
  c.subclassBooks.length = 2 ^ c.subclasses ∧ (∀ b ∈ c.subclassBooks, -1 ≤ b ∧ b ≤ 254)

/-- The dimensions of class `c` of a class table. -/
def classDimensions (classes : List FloorClass) (c : Nat) : Nat :=
  (classes[c]?.map FloorClass.dimensions).getD 0

/-- R56, R275. -/
abbrev Floor1.wf (f : Floor1) : Prop :=
  (1 ≤ f.partitions ∧ f.partitions ≤ 31) ∧
  f.partitionClassList.length = f.partitions ∧
  (∀ c ∈ f.partitionClassList, c ≤ f.maximumClass) ∧ f.maximumClass ∈ f.partitionClassList ∧
  f.maximumClass ≤ 15 ∧
  f.classes.length = f.maximumClass + 1 ∧ (∀ c ∈ f.classes, c.wf) ∧
  (1 ≤ f.multiplier ∧ f.multiplier ≤ 4) ∧ f.rangebits ≤ 15 ∧
  f.xList.length ≤ 65 ∧
  f.xList.length = 2 + (f.partitionClassList.map (classDimensions f.classes)).sum ∧
  f.xList.take 2 = [0, 2 ^ f.rangebits] ∧ (∀ x ∈ f.xList.drop 2, x < 2 ^ f.rangebits)

/-- R55. -/
abbrev Floor.wf : Floor → Prop
  | .zero f => f.wf
  | .one f => f.wf

/-- R58, R305: one row of eight, `Some` exactly at the set bits of its cascade byte. -/
abbrev Residue.rowWf (cascade : Nat) (row : List (Option Nat)) : Prop :=
  row.length = 8 ∧
  (∀ j < 8, ((row[j]?.getD none).isSome = cascade.testBit j)) ∧ (∀ b ∈ row, ∀ n ∈ b, n < 2 ^ 8)

/-- R58, R305. -/
abbrev Residue.wf (r : Residue) : Prop :=
  r.residueType ≤ 2 ∧ r.beginBound < 2 ^ 24 ∧ r.endBound < 2 ^ 24 ∧
  (1 ≤ r.partitionSize ∧ r.partitionSize ≤ 2 ^ 24) ∧
  (1 ≤ r.classifications ∧ r.classifications ≤ 64) ∧ r.classbook < 2 ^ 8 ∧
  r.cascade.length = r.classifications ∧ (∀ c ∈ r.cascade, c < 2 ^ 8) ∧
  r.books.length = r.classifications ∧
  (∀ p ∈ r.cascade.zip r.books, Residue.rowWf p.1 p.2)

/-- R59, R328. The channel count the record was decoded for is the length of its `mux`. -/
abbrev Mapping.wf (m : Mapping) : Prop :=
  m.mappingType = 0 ∧ (1 ≤ m.submaps ∧ m.submaps ≤ 16) ∧ m.couplingSteps ≤ 256 ∧
  m.magnitude.length = m.couplingSteps ∧ m.angle.length = m.couplingSteps ∧
  (∀ p ∈ m.magnitude.zip m.angle, p.1 ≠ p.2 ∧ p.1 < m.mux.length ∧ p.2 < m.mux.length) ∧
  (∀ v ∈ m.mux, v < m.submaps) ∧
  m.submapsVec.length = m.submaps ∧ (∀ s ∈ m.submapsVec, s.floor < 2 ^ 8 ∧ s.residue < 2 ^ 8)

/-- R60, R343. -/
abbrev Mode.wf (m : Mode) : Prop := m.windowType = 0 ∧ m.transformType = 0 ∧ m.mapping < 2 ^ 8

/-- R61. -/
abbrev TimeDomainTransform.wf (t : TimeDomainTransform) : Prop := t.reserved = 0

/-- R62. -/
abbrev SetupHeader.wf (h : SetupHeader) : Prop :=
  ((1 ≤ h.codebooks.length ∧ h.codebooks.length ≤ 256) ∧ ∀ r ∈ h.codebooks, r.wf) ∧
  ((1 ≤ h.timeDomainTransforms.length ∧ h.timeDomainTransforms.length ≤ 64) ∧
    ∀ r ∈ h.timeDomainTransforms, r.wf) ∧
  ((1 ≤ h.floors.length ∧ h.floors.length ≤ 64) ∧ ∀ r ∈ h.floors, Floor.wf r) ∧
  ((1 ≤ h.residues.length ∧ h.residues.length ≤ 64) ∧ ∀ r ∈ h.residues, r.wf) ∧
  ((1 ≤ h.mappings.length ∧ h.mappings.length ≤ 64) ∧ ∀ r ∈ h.mappings, r.wf) ∧
  ((1 ≤ h.modes.length ∧ h.modes.length ≤ 64) ∧ ∀ r ∈ h.modes, r.wf)

/-- R52: the record store's value meets the properties of its kind. -/
def Record.wf : Record → Prop
  | .codebook r => r.wf
  | .tdt r => r.wf
  | .floor r => Floor.wf r
  | .residue r => r.wf
  | .mapping r => r.wf
  | .mode r => r.wf
  | .setup r => r.wf

end Sys2Proof
end

