-- ==== Sys2Proof/Machine/Floor.lean ====
section
/-!
DEFINITION. The floor decoder (44_floor.md).
-/

namespace Sys2Proof.Machine

/-- Floor type 0, after the tag (R272, R273). -/
def decodeFloor0 (p : Payload) : Parser Floor0 := do
  let order ← read p 8
  let rate ← read p 16
  let barkMapSize ← read p 16
  let amplitudeBits ← read p 6
  let amplitudeOffset ← read p 8
  let raw ← read p 4
  let bookList ← times (fun _ => read p 8) (raw + 1) 0
  return ⟨order, rate, barkMapSize, amplitudeBits, amplitudeOffset, raw + 1, bookList⟩

/-- One class of the class table (R278). -/
def decodeFloorClass (p : Payload) : Parser FloorClass := do
  let rawDimensions ← read p 3
  let subclasses ← read p 2
  let masterbooks ← if subclasses > 0 then some <$> read p 8 else pure none
  let books ← times (fun _ => read p 8) (2 ^ subclasses) 0
  return ⟨rawDimensions + 1, subclasses, masterbooks, books.map (fun (b : Nat) => (b : Int) - 1)⟩

/-- The x values of the partitions, in their order (R280). -/
def xValues (p : Payload) (rangebits : Nat) (classes : List FloorClass) : List Nat → Parser (List Nat)
  | [] => pure []
  | c :: rest => do
    let here ← times (fun _ => read p rangebits) (classDimensions classes c) 0
    let after ← xValues p rangebits classes rest
    return here ++ after

/-- Floor type 1, after the tag (R274 to R281). The class of `max` is taken of a list that R277 has made non-empty. -/
def decodeFloor1 (p : Payload) : Parser Floor1 := do
  let partitions ← read p 5
  let classList ← times (fun _ => read p 4) partitions 0
  if partitions = 0 then raise .emptyPartitionList 0 0
  let maximumClass := classList.foldr max 0
  let classes ← times (fun _ => decodeFloorClass p) (maximumClass + 1) 0
  let rawMultiplier ← read p 2
  let rangebits ← read p 4
  let xs ← xValues p rangebits classes classList
  let xList := 0 :: 2 ^ rangebits :: xs
  if xList.length > 65 then raise .countOverflow xList.length 65
  return ⟨partitions, classList, maximumClass, classes, rawMultiplier + 1, rangebits, xList⟩

/-- `decode_floor()` (R270, R271). -/
def decodeFloor (p : Payload) : Parser Floor := do
  let floorType ← read p 16
  if floorType = 0 then
    let f ← decodeFloor0 p
    return .zero f
  else if floorType = 1 then
    let f ← decodeFloor1 p
    return .one f
  else
    raise .invalidEnumValue floorType 2

end Sys2Proof.Machine
end

