-- ==== Sys2Proof/Machine/Mapping.lean ====
section
/-!
DEFINITION. The mapping decoder (46_mapping.md).
-/

namespace Sys2Proof.Machine

/-- The mapping type (R320). -/
def mappingType (p : Payload) : Parser Unit := do
  let t ← read p 16
  if t ≠ 0 then raise .reservedFieldViolation t 2

/-- One coupling pair: both indices are read before the pair is checked (R322). -/
def couplingPair (p : Payload) (ch : Nat) : Parser (Nat × Nat) := do
  let m ← read p (ilog (ch - 1))
  let a ← read p (ilog (ch - 1))
  if m = a ∨ m ≥ ch ∨ a ≥ ch then raise .couplingConstraintViolation m a
  return (m, a)

/-- The submap count and the polar coupling (R321, R322). -/
def mappingCoupling (p : Payload) (ch : Nat) : Parser MappingHead := do
  let manySubmaps ← flag p
  let submaps ← if manySubmaps then (· + 1) <$> read p 4 else pure 1
  let coupled ← flag p
  if coupled then
    let raw ← read p 8
    let pairs ← times (fun _ => couplingPair p ch) (raw + 1) 0
    return ⟨submaps, raw + 1, pairs.map Prod.fst, pairs.map Prod.snd⟩
  else
    return ⟨submaps, 0, [], []⟩

/-- The reserved field (R324). -/
def mappingReserved (p : Payload) : Parser Unit := do
  let v ← read p 2
  if v ≠ 0 then raise .reservedFieldViolation v 3

/-- One mux value, checked as soon as it is read (R325). -/
def muxValue (p : Payload) (submaps : Nat) : Parser Nat := do
  let v ← read p 4
  if v ≥ submaps then raise .muxOutOfRange v submaps
  return v

/-- One submap record; the time placeholder is discarded (R326). -/
def submapRecord (p : Payload) : Parser Submap := do
  let _ ← read p 8
  let floor ← read p 8
  let residue ← read p 8
  return ⟨floor, residue⟩

/-- The channel multiplex and the submap records (R325, R326). -/
def mappingMux (p : Payload) (ch : Nat) (h : MappingHead) : Parser Mapping := do
  let mux ← if h.submaps > 1 then times (fun _ => muxValue p h.submaps) ch 0 else pure (List.replicate ch 0)
  let submapsVec ← times (fun _ => submapRecord p) h.submaps 0
  return ⟨0, h.submaps, h.couplingSteps, h.magnitude, h.angle, mux, submapsVec⟩

/-- `decode_mapping(ch)` (R320). -/
def decodeMapping (p : Payload) (ch : Nat) : Parser Mapping := do
  mappingType p
  let h ← mappingCoupling p ch
  mappingReserved p
  mappingMux p ch h

end Sys2Proof.Machine
end

