-- ==== Sys2Proof/Machine/ModeTdt.lean ====
section
/-!
DEFINITION. The mode and time-domain transform decoders (47_mode_tdt.md).
-/

namespace Sys2Proof.Machine

/-- `window_type` with its check (R340). -/
def modeWindow (p : Payload) : Parser Unit := do
  let v ← read p 16
  if v ≠ 0 then raise .reservedFieldViolation v 4

/-- `transform_type` with its check (R340). -/
def modeTransform (p : Payload) : Parser Unit := do
  let v ← read p 16
  if v ≠ 0 then raise .reservedFieldViolation v 5

/-- `decode_mode()` (R341). -/
def decodeMode (p : Payload) : Parser Mode := do
  let blockflag ← flag p
  modeWindow p
  modeTransform p
  let mapping ← read p 8
  return ⟨blockflag, 0, 0, mapping⟩

/-- `decode_tdt()` (R344). -/
def decodeTdt (p : Payload) : Parser TimeDomainTransform := do
  let reserved ← read p 16
  if reserved ≠ 0 then raise .reservedFieldViolation reserved 1
  return ⟨0⟩

end Sys2Proof.Machine
end

