-- ==== Sys2Proof/Machine/Residue.lean ====
section
/-!
DEFINITION. The residue decoder (45_residue.md).
-/

namespace Sys2Proof.Machine

/-- One cascade byte: `high · 8 + low` (R301). -/
def cascadeByte (p : Payload) : Parser Nat := do
  let low ← read p 3
  let bitflag ← flag p
  let high ← if bitflag then read p 5 else pure 0
  return high * 8 + low

/-- The eight book fields of one classification, bit positions least significant first (R303). -/
def bookRow (p : Payload) (cascade : Nat) : Parser (List (Option Nat)) :=
  times (fun j => if cascade.testBit j then some <$> read p 8 else pure none) 8 0

/-- The book rows of a cascade list (R303). -/
def bookRows (p : Payload) : List Nat → Parser (List (List (Option Nat)))
  | [] => pure []
  | c :: rest => do
    let row ← bookRow p c
    let rows ← bookRows p rest
    return row :: rows

/-- Everything after the residue type, which parses alike for the three types (R300, R302, R301, R303). -/
def residueBody (p : Payload) (residueType : Nat) : Parser Residue := do
  let beginBound ← read p 24
  let endBound ← read p 24
  let rawSize ← read p 24
  let rawClassifications ← read p 6
  let classbook ← read p 8
  let cascade ← times (fun _ => cascadeByte p) (rawClassifications + 1) 0
  let books ← bookRows p cascade
  return ⟨residueType, beginBound, endBound, rawSize + 1, rawClassifications + 1, classbook, cascade, books⟩

/-- `decode_residue()` (R300). -/
def decodeResidue (p : Payload) : Parser Residue := do
  let residueType ← read p 16
  if residueType > 2 then raise .invalidEnumValue residueType 3
  residueBody p residueType

end Sys2Proof.Machine
end

