-- ==== Sys2Proof/Machine/Setup.lean ====
section
/-!
DEFINITION. The setup-header orchestrator (48_setup.md) and the decode commands.
-/

namespace Sys2Proof.Machine

/-- One count-prefixed list: the count field, then that many records, each with its own `ctx` (R360, R361). -/
def decodeList {α : Type} (p : Payload) (stage : Stage) (width : Nat) (decoder : Parser α) : Parser (List α) := do
  setCtx stage true 0
  let raw ← read p width
  times (fun i => do setCtx stage false i; decoder) (raw + 1) 0

/-- The trailing-data check: no whole byte may be left after the byte that holds the framing bit (R365). -/
def trailingCheck (p : Payload) : Parser Unit := fun c =>
  let left := p.len - (c.pos + 7) / 8
  if left ≠ 0 then .error ⟨.trailingDataOrMissingFramingBit, 1, left⟩ c else .ok () c

/-- The framing bit and the trailing-data check (R365). -/
def setupFraming (p : Payload) : Parser Unit := do
  setCtx .framing false 0
  let framing ← flag p
  if framing = false then raise .trailingDataOrMissingFramingBit 0 0
  trailingCheck p

/-- `decode_setup(ch)` (R360): the six lists in order, then R365. -/
def decodeSetup (params : Params) (p : Payload) (ch : Nat) : Parser SetupHeader := do
  let codebooks ← decodeList p .codebook 8 (decodeCodebook params p)
  let tdts ← decodeList p .tdt 6 (decodeTdt p)
  let floors ← decodeList p .floor 6 (decodeFloor p)
  let residues ← decodeList p .residue 6 (decodeResidue p)
  let mappings ← decodeList p .mapping 6 (decodeMapping p ch)
  let modes ← decodeList p .mode 6 (decodeMode p)
  setupFraming p
  return ⟨codebooks, tdts, floors, residues, mappings, modes⟩

/-- The start check of a decode command (60_exceptions.md R411): the failing ContractViolation's reason and operand.
`mapped` says that the command also needs AUDIO_CHANNELS in 1..=255. -/
def State.decodeCheck (s : State) (mapped : Bool) : Option (Nat × Nat) :=
  if s.inLen.toNat > s.params.inCap then some (8, s.inLen.toNat)
  else if mapped && (s.channels < 1 || s.channels > 255) then some (7, s.channels)
  else none

/-- A decode command from its start checks to its completion: the decoder starts at bit `start` in the context `ctx`
(R240, R283, R304, R327, R342, R345, R364). -/
def State.runDecode (s : State) (mapped : Bool) (start : Nat) (ctx : ErrCtx) (decoder : Parser Record) : State :=
  match s.decodeCheck mapped with
  | some (reason, aux) => s.violation reason aux
  | none => s.endDecode start (decoder ⟨start, ctx⟩)

/-- DECODE_CODEBOOK (43_codebook.md R240). -/
def execDecodeCodebook (s : State) : Host.Outcome State Fault Refusal :=
  .next (s.runDecode false s.bitPos.toNat ⟨.codebook, false, 0⟩ (Record.codebook <$> decodeCodebook s.params s.payload))

/-- DECODE_FLOOR (44_floor.md R283). -/
def execDecodeFloor (s : State) : Host.Outcome State Fault Refusal :=
  .next (s.runDecode false s.bitPos.toNat ⟨.floor, false, 0⟩ (Record.floor <$> decodeFloor s.payload))

/-- DECODE_RESIDUE (45_residue.md R304). -/
def execDecodeResidue (s : State) : Host.Outcome State Fault Refusal :=
  .next (s.runDecode false s.bitPos.toNat ⟨.residue, false, 0⟩ (Record.residue <$> decodeResidue s.payload))

/-- DECODE_MAPPING (46_mapping.md R327). -/
def execDecodeMapping (s : State) : Host.Outcome State Fault Refusal :=
  .next (s.runDecode true s.bitPos.toNat ⟨.mapping, false, 0⟩ (Record.mapping <$> decodeMapping s.payload s.channels))

/-- DECODE_MODE (47_mode_tdt.md R342). -/
def execDecodeMode (s : State) : Host.Outcome State Fault Refusal :=
  .next (s.runDecode false s.bitPos.toNat ⟨.mode, false, 0⟩ (Record.mode <$> decodeMode s.payload))

/-- DECODE_TDT (47_mode_tdt.md R345). -/
def execDecodeTdt (s : State) : Host.Outcome State Fault Refusal :=
  .next (s.runDecode false s.bitPos.toNat ⟨.tdt, false, 0⟩ (Record.tdt <$> decodeTdt s.payload))

/-- DECODE_SETUP (48_setup.md R364): the cursor starts at bit 0 once the start checks have passed. -/
def execDecodeSetup (s : State) : Host.Outcome State Fault Refusal :=
  .next (s.runDecode true 0 ⟨.codebook, true, 0⟩ (Record.setup <$> decodeSetup s.params s.payload s.channels))

end Sys2Proof.Machine
end

