-- ==== Sys2Proof/Machine/Tags.lean ====
section
/-!
DEFINITION. The bitstream's fixed-value fields as instructions (30_encoding.md R106 to R116), and the engine's hidden parse
variables moving over them (10_state.md R63).

A decode command is one transition (70_reset_and_hazards.md R458), and Setup.lean gives it. The engine can also be
found inside one: a host access may land while it is BUSY (10_state.md R46). Then it goes on one field at a time,
and each fixed-value field is an instruction read at BIT_POS. The instruction consumes the field (its value is what
the decoder has recognised) and has the effect its rule gives; Engine.lean raises the error of R116 where the value is
not one of the field's instructions. Both readings use the same step definitions of the record decoders.
-/

namespace Sys2Proof.Machine

/-- What a field leaves: more to read, or the record that ends the command. -/
inductive Progress where
  | more (v : ParseVars)
  | emit (r : Record)
deriving DecidableEq, Repr

/-- The first field of a record of a stage (R108 to R114). -/
def firstPoint : Stage → Point
  | .codebook => .codebookSync
  | .tdt => .tdtReserved
  | .floor => .floorType
  | .residue => .residueType
  | .mapping => .mappingType
  | .mode => .modeBlockflag
  | .framing => .setupFraming
  | .outside => .none

/-- The stage after a list (48_setup.md R360). -/
def nextStage : Stage → Stage
  | .codebook => .tdt
  | .tdt => .floor
  | .floor => .residue
  | .residue => .mapping
  | .mapping => .mode
  | .mode => .framing
  | .framing => .framing
  | .outside => .outside

/-- `list.append(decoder())` (R360). -/
def pushRecord (h : SetupHeader) : Record → SetupHeader
  | .codebook r => { h with codebooks := h.codebooks ++ [r] }
  | .tdt r => { h with timeDomainTransforms := h.timeDomainTransforms ++ [r] }
  | .floor r => { h with floors := h.floors ++ [r] }
  | .residue r => { h with residues := h.residues ++ [r] }
  | .mapping r => { h with mappings := h.mappings ++ [r] }
  | .mode r => { h with modes := h.modes ++ [r] }
  | .setup _ => h

/-- The point the orchestrator reads a stage's list from: its count field, or the framing bit (R360, R365). -/
def listPoint (stage : Stage) : Point := if stage = .framing then .setupFraming else .setupCount

/-- A record is complete: a record command emits it; DECODE_SETUP appends it and goes to the next record or to the next
list (R360). -/
def ParseVars.recordDone (v : ParseVars) (r : Record) : Progress :=
  if v.inSetup then
    if v.left > 1 then
      .more { v with header := pushRecord v.header r, left := v.left - 1, point := firstPoint v.stage }
    else
      .more { v with
        header := pushRecord v.header r
        left := 0
        stage := nextStage v.stage
        point := listPoint (nextStage v.stage) }
  else .emit r

/-- Run one field's parser from BIT_POS: the parse variables move on, or the command ends with its record (R48, R52) or
with an error (R403). -/
def State.applyField (s : State) (f : Parser Progress) : State :=
  match f ⟨s.bitPos.toNat, s.parse.ctx⟩ with
  | .ok (.more v) c => { s.withBitPos c.pos with parse := v }
  | .ok (.emit r) c => s.endDecode s.parse.start (.ok r c)
  | .error e c => s.endDecode s.parse.start (.error e c)

/-- Consume an `n`-bit field whose value the decoder has recognised. -/
def consume (p : Payload) (n : Nat) : Parser Unit := do
  let _ ← read p n
  return ()

/-- A tag that selects nothing: the engine goes on to another point. -/
def State.passTag (s : State) (f : Field) (v : ParseVars) : State :=
  s.applyField (do consume s.payload f.width; return .more v)

/-- CODEBOOK_SYNC (R231): the engine goes on to the sizes and the length table. -/
def execCodebookSync (s : State) : Host.Outcome State Fault Refusal :=
  .next (s.passTag .codebookSync { s.parse with point := .codebookTable })

/-- A lookup type's tag (R237): the table it selects is read, and the engine goes on to the Huffman build. -/
def State.lookupTag (s : State) (lookupType : Nat) (table : Parser (Option VectorLookupTable)) : State :=
  s.applyField (do
    consume s.payload Field.codebookLookup.width
    let t ← table
    return .more { s.parse with lookupType := lookupType, vectorTable := t, point := .codebookTree })

/-- CODEBOOK_LOOKUP_NONE (R237): no vector lookup table. -/
def execCodebookLookupNone (s : State) : Host.Outcome State Fault Refusal :=
  .next (s.lookupTag 0 (pure none))

/-- CODEBOOK_LOOKUP_TYPE1 (R238). -/
def execCodebookLookupType1 (s : State) : Host.Outcome State Fault Refusal :=
  .next (s.lookupTag 1 (some <$> vectorTable s.params s.payload 1 s.parse.book.entries s.parse.book.dimensions))

/-- CODEBOOK_LOOKUP_TYPE2 (R238). -/
def execCodebookLookupType2 (s : State) : Host.Outcome State Fault Refusal :=
  .next (s.lookupTag 2 (some <$> vectorTable s.params s.payload 2 s.parse.book.entries s.parse.book.dimensions))

/-- A tag that the rest of its record follows. -/
def State.recordTag (s : State) (f : Field) (rest : Parser Record) : State :=
  s.applyField (do
    consume s.payload f.width
    let r ← rest
    return s.parse.recordDone r)

/-- FLOOR_TYPE0 (R271 to R273). -/
def execFloorType0 (s : State) : Host.Outcome State Fault Refusal :=
  .next (s.recordTag .floorType ((fun f => .floor (.zero f)) <$> decodeFloor0 s.payload))

/-- FLOOR_TYPE1 (R271, R274 to R281). -/
def execFloorType1 (s : State) : Host.Outcome State Fault Refusal :=
  .next (s.recordTag .floorType ((fun f => .floor (.one f)) <$> decodeFloor1 s.payload))

/-- RESIDUE_TYPE0 (R300 to R303). -/
def execResidueType0 (s : State) : Host.Outcome State Fault Refusal :=
  .next (s.recordTag .residueType (Record.residue <$> residueBody s.payload 0))

/-- RESIDUE_TYPE1: "The three legal types parse identically" (R300). -/
def execResidueType1 (s : State) : Host.Outcome State Fault Refusal :=
  .next (s.recordTag .residueType (Record.residue <$> residueBody s.payload 1))

/-- RESIDUE_TYPE2 (R300). -/
def execResidueType2 (s : State) : Host.Outcome State Fault Refusal :=
  .next (s.recordTag .residueType (Record.residue <$> residueBody s.payload 2))

/-- MAPPING_TYPE0 (R320): the engine goes on to the submap count and the coupling. -/
def execMappingType0 (s : State) : Host.Outcome State Fault Refusal :=
  .next (s.passTag .mappingType { s.parse with point := .mappingCoupling })

/-- MAPPING_RESERVED (R324): the engine goes on to the channel multiplex. -/
def execMappingReserved (s : State) : Host.Outcome State Fault Refusal :=
  .next (s.passTag .mappingReserved { s.parse with point := .mappingMux })

/-- MODE_WINDOW_TYPE0 (R340): the engine goes on to `transform_type`. -/
def execModeWindowType0 (s : State) : Host.Outcome State Fault Refusal :=
  .next (s.passTag .modeWindow { s.parse with point := .modeTransform })

/-- MODE_TRANSFORM_TYPE0 (R340): the engine goes on to the mapping index. -/
def execModeTransformType0 (s : State) : Host.Outcome State Fault Refusal :=
  .next (s.passTag .modeTransform { s.parse with point := .modeMapping })

/-- TDT_RESERVED (R344): the whole record. -/
def execTdtReserved (s : State) : Host.Outcome State Fault Refusal :=
  .next (s.recordTag .tdtReserved (pure (.tdt ⟨0⟩)))

/-- SETUP_FRAMING (R365): the trailing-data check, then the header is emitted (R366). -/
def execSetupFraming (s : State) : Host.Outcome State Fault Refusal :=
  .next (s.applyField (do
    consume s.payload Field.setupFraming.width
    trailingCheck s.payload
    return .emit (.setup s.parse.header)))

end Sys2Proof.Machine
end

