-- ==== Sys2Proof/Machine/Dispatch.lean ====
section
/-!
DEFINITION. The meaning of every instruction, one arm each.
-/

namespace Sys2Proof.Machine

def exec (i : Instr) (s : State) : Host.Outcome State Fault Refusal :=
  match i with
  | .readBits => Sys2Proof.Machine.execReadBits s
  | .ilog => Sys2Proof.Machine.execIlog s
  | .float32Unpack => Sys2Proof.Machine.execFloat32Unpack s
  | .lookup1Values => Sys2Proof.Machine.execLookup1Values s
  | .lowNeighbor => Sys2Proof.Machine.execLowNeighbor s
  | .highNeighbor => Sys2Proof.Machine.execHighNeighbor s
  | .renderPoint => Sys2Proof.Machine.execRenderPoint s
  | .renderLine => Sys2Proof.Machine.execRenderLine s
  | .huffClear => Sys2Proof.Machine.execHuffClear s
  | .huffAddNode => Sys2Proof.Machine.execHuffAddNode s
  | .decodeCodebook => Sys2Proof.Machine.execDecodeCodebook s
  | .decodeFloor => Sys2Proof.Machine.execDecodeFloor s
  | .decodeResidue => Sys2Proof.Machine.execDecodeResidue s
  | .decodeMapping => Sys2Proof.Machine.execDecodeMapping s
  | .decodeMode => Sys2Proof.Machine.execDecodeMode s
  | .decodeTdt => Sys2Proof.Machine.execDecodeTdt s
  | .decodeSetup => Sys2Proof.Machine.execDecodeSetup s
  | .codebookSync => Sys2Proof.Machine.execCodebookSync s
  | .codebookLookupNone => Sys2Proof.Machine.execCodebookLookupNone s
  | .codebookLookupType1 => Sys2Proof.Machine.execCodebookLookupType1 s
  | .codebookLookupType2 => Sys2Proof.Machine.execCodebookLookupType2 s
  | .floorType0 => Sys2Proof.Machine.execFloorType0 s
  | .floorType1 => Sys2Proof.Machine.execFloorType1 s
  | .residueType0 => Sys2Proof.Machine.execResidueType0 s
  | .residueType1 => Sys2Proof.Machine.execResidueType1 s
  | .residueType2 => Sys2Proof.Machine.execResidueType2 s
  | .mappingType0 => Sys2Proof.Machine.execMappingType0 s
  | .mappingReserved => Sys2Proof.Machine.execMappingReserved s
  | .modeWindowType0 => Sys2Proof.Machine.execModeWindowType0 s
  | .modeTransformType0 => Sys2Proof.Machine.execModeTransformType0 s
  | .tdtReserved => Sys2Proof.Machine.execTdtReserved s
  | .setupFraming => Sys2Proof.Machine.execSetupFraming s

end Sys2Proof.Machine
end

