-- ==== Sys2Proof/Machine/Bus.lean ====
section
/-!
DEFINITION. The host's side: bus accesses while the engine is IDLE and while it is BUSY (10_state.md R34 to R46,
20_memory.md R70 to R76), soft reset (70_reset_and_hazards.md R452), hardware reset (R450).
-/

namespace Sys2Proof.Machine

/-- A legal access is 32 bits wide at an offset that is a multiple of 4 (20_memory.md R72). -/
def accessOk (width : Width) (offset : Nat) : Bool := width == .word && offset % 4 == 0

/-- The offset in the block of a bus address, if the address is the block's: its 32-bit offset range runs from BASE
(R70). -/
def busOffset (p : Params) (address : Nat) : Option Nat :=
  if p.base ≤ address ∧ address < p.base + 2 ^ 32 then some (address - p.base) else none

/-- The element writes of a RENDER_LINE under way, each kept or lost (R452). A RENDER_LINE whose checks fail writes no
element (41_numeric.md R186). -/
def State.abortedLine (s : State) : Memory :=
  if s.lineLen.toNat ≤ s.params.lineCap && s.lineInBounds then
    s.lineWrites.foldl (fun m w =>
      m.setWord (lineOffset w.1)
        (if Config.lineKeepsNew s.draws w.1 then Word.ofI32 w.2 else m.word s.resets (lineOffset w.1))) s.mem
  else s.mem

/-- The RENDER_LINE opcode is running. -/
def State.drawingLine (s : State) : Bool := s.busy && decodeOpcode s.cmd.toNat matches .ok .renderLine

/-- Soft reset (R452): the soft-reset column of R451; a running command is abandoned. -/
def State.softReset (s : State) : State :=
  if s.drawingLine then { s.clearRegisters with mem := s.abortedLine, draws := s.draws + 1 } else s.clearRegisters

/-- A host write to CTRL: bit 0 is SOFT_RESET, the other bits are ignored (10_state.md R42). -/
def State.writeCtrl (s : State) (v : Word) : State := if v.getLsbD 0 then s.softReset else s

/-- A host write to a location while the engine is IDLE (R34, R42, R45; 20_memory.md R71 to R74). -/
def State.writeLoc (s : State) (v : Word) : Loc → State
  | .reg .cmd => s.startCommand (v.setWidth 8)
  | .reg .ctrl => s.writeCtrl v
  | .reg r => s.writeReg v r
  | .vec i => { s with mem := s.mem.setWord (vecBase + 4 * i) v }
  | .line i => { s with mem := s.mem.setWord (lineOffset i) v }
  | .inMem i => { s with mem := [0, 1, 2, 3].foldl (storeInByte s.params i v) s.mem }
  | .huff _ _ => s
  | .recWord _ => s
  | .nothing => s

/-- A host write at an offset. A malformed access, or any write but one to CTRL while the engine is BUSY, is discarded
and sets HOST_FAULT (10_state.md R46, 20_memory.md R72). -/
def State.hostWrite (s : State) (width : Width) (offset : Nat) (v : Word) : State :=
  if accessOk width offset = false then { s with hostFault := true }
  else if s.busy then
    if offset = Reg.ctrl.offset then s.writeCtrl v else { s with hostFault := true }
  else s.writeLoc v (locate s.params offset)

/-- A draw for the bus (R46, R72). -/
def State.drawRead (s : State) : State := { s with readData := Config.busDraw s.draws, draws := s.draws + 1 }

/-- A host read at an offset. A malformed read returns a draw and, as every misaligned or non-32-bit access does, sets
HOST_FAULT (20_memory.md R72, 60_exceptions.md R413, 10_state.md R35; notes/assumptions/4.md). Any other read but one
of STATUS while the engine is BUSY returns a draw and has no effect on the block (R46). -/
def State.hostRead (s : State) (width : Width) (offset : Nat) : State :=
  if accessOk width offset = false then { s.drawRead with hostFault := true }
  else if s.busy && offset ≠ Reg.status.offset then s.drawRead
  else { s with readData := s.readLoc (locate s.params offset) }

/-- One host event. An address outside the block's range does not reach the block (notes/assumptions/8.md), and a hardware
reset is over when the event is (notes/assumptions/21.md). -/
def State.hostEvent (s : State) : HostEvent → State
  | .write address width data =>
    match busOffset s.params address with
    | some offset => s.hostWrite width offset data
    | none => s
  | .read address width =>
    match busOffset s.params address with
    | some offset => s.hostRead width offset
    | none => s
  | .hardReset => s.hardReset

end Sys2Proof.Machine
end

