-- ==== Sys2Proof/Machine/Engine.lean ====
section
/-!
DEFINITION. Whose turn it is and what the engine does next: a pending host event, a whole command (70_reset_and_hazards.md
R458), or, while a host event is to land inside a decode command, one field of it (10_state.md R46, R63). Step.lean
only runs the turn that `nextTurn` answers.
-/

namespace Sys2Proof.Machine

/-- A turn: run an instruction on a state, or go to a state. -/
inductive Turn where
  | run (i : Instr) (s : State)
  | done (s : State)
deriving DecidableEq, Repr

/-- The fixed-value field at a point, if the next field is one (R108 to R115). -/
def pointField : Point → Option Field
  | .codebookSync => some .codebookSync
  | .codebookLookup => some .codebookLookup
  | .tdtReserved => some .tdtReserved
  | .floorType => some .floorType
  | .residueType => some .residueType
  | .mappingType => some .mappingType
  | .mappingReserved => some .mappingReserved
  | .modeWindow => some .modeWindow
  | .modeTransform => some .modeTransform
  | .setupFraming => some .setupFraming
  | .none => Option.none
  | .codebookTable => Option.none
  | .codebookOrdered => Option.none
  | .codebookTree => Option.none
  | .mappingCoupling => Option.none
  | .mappingMux => Option.none
  | .modeBlockflag => Option.none
  | .modeMapping => Option.none
  | .setupCount => Option.none

/-- The error of a value that is no instruction (30_encoding.md R105, R116; 60_exceptions.md R402). -/
def rejectError : Reject → Raise
  | .unassignedOpcode op => ⟨.illegalCommand, op, 0⟩
  | .illegalValue .command v => ⟨.illegalCommand, v, 0⟩
  | .illegalValue .codebookSync v => ⟨.syncMismatch, v, 0⟩
  | .illegalValue .codebookLookup v => ⟨.invalidEnumValue, v, 1⟩
  | .illegalValue .floorType v => ⟨.invalidEnumValue, v, 2⟩
  | .illegalValue .residueType v => ⟨.invalidEnumValue, v, 3⟩
  | .illegalValue .tdtReserved v => ⟨.reservedFieldViolation, v, 1⟩
  | .illegalValue .mappingType v => ⟨.reservedFieldViolation, v, 2⟩
  | .illegalValue .mappingReserved v => ⟨.reservedFieldViolation, v, 3⟩
  | .illegalValue .modeWindow v => ⟨.reservedFieldViolation, v, 4⟩
  | .illegalValue .modeTransform v => ⟨.reservedFieldViolation, v, 5⟩
  | .illegalValue .setupFraming _ => ⟨.trailingDataOrMissingFramingBit, 0, 0⟩

/-- The fields that are no fixed values, in the groups the family files give them (R232 to R236, R239, R321 to R326, R341,
R360). At a fixed-value field nothing is read here: the engine decodes it. -/
def State.plainField (s : State) : Parser Progress :=
  let p := s.payload
  let v := s.parse
  match v.point with
  | .codebookTable => do
    let (dimensions, entries, ordered) ← codebookSizes s.params p
    if ordered then
      let raw ← read p 5
      return .more { v with
        book := ⟨dimensions, entries, true, Option.none, []⟩
        currentEntry := 0
        currentLength := raw + 1
        point := .codebookOrdered }
    else
      let h ← unorderedTable p dimensions entries
      return .more { v with book := h, point := .codebookLookup }
  | .codebookOrdered =>
    if v.currentEntry < v.book.entries then do
      let number ← orderedField p v.book.entries v.currentEntry v.currentLength
      return .more { v with
        book := { v.book with
          codewordLengths := v.book.codewordLengths ++ List.replicate number (some v.currentLength) }
        currentEntry := v.currentEntry + number
        currentLength := v.currentLength + 1 }
    else pure (.more { v with point := .codebookLookup })
  | .codebookTree => do
    let c ← codebookTree s.params v.book v.lookupType v.vectorTable
    return v.recordDone (.codebook c)
  | .mappingCoupling => do
    let h ← mappingCoupling p s.channels
    return .more { v with mapping := h, point := .mappingReserved }
  | .mappingMux => do
    let m ← mappingMux p s.channels v.mapping
    return v.recordDone (.mapping m)
  | .modeBlockflag => do
    let b ← flag p
    return .more { v with blockflag := b, point := .modeWindow }
  | .modeMapping => do
    let m ← read p 8
    return v.recordDone (.mode ⟨v.blockflag, 0, 0, m⟩)
  | .setupCount => do
    let raw ← read p (if v.stage = .codebook then 8 else 6)
    return .more { v with left := raw + 1, point := firstPoint v.stage }
  | _ => pure (.more v)

/-- One field of a decode command under way. A fixed-value field is fetched at BIT_POS: a field cut short raises
PrematureEndOfData (R405(b)), a value that is no instruction raises its error with the cursor after the field
(R153(d)), and an instruction is run. -/
def State.engineField (s : State) : Turn :=
  match pointField s.parse.point with
  | Option.none => .done (s.applyField s.plainField)
  | some f =>
    match read s.payload f.width ⟨s.bitPos.toNat, s.parse.ctx⟩ with
    | .error e c => .done (s.endDecode s.parse.start (.error e c))
    | .ok value c =>
      match decodeField f value with
      | .ok i => .run i s
      | .error r => .done (s.endDecode s.parse.start (.error (rejectError r) c))

/-- How a decode command starts (R240, R283, R304, R327, R342, R345, R364): whether it needs AUDIO_CHANNELS, its stage,
and whether it is DECODE_SETUP; nothing for another instruction. -/
def decodePlan : Instr → Option (Bool × Stage × Bool)
  | .decodeCodebook => some (false, .codebook, false)
  | .decodeFloor => some (false, .floor, false)
  | .decodeResidue => some (false, .residue, false)
  | .decodeMapping => some (true, .mapping, false)
  | .decodeMode => some (false, .mode, false)
  | .decodeTdt => some (false, .tdt, false)
  | .decodeSetup => some (true, .codebook, true)
  | _ => none

/-- Enter a decode command: its start checks, then its first field; DECODE_SETUP sets BIT_POS to 0 once the checks have
passed (R364). -/
def State.enterDecode (s : State) (mapped : Bool) (stage : Stage) (setup : Bool) : State :=
  match s.decodeCheck mapped with
  | some (reason, aux) => s.violation reason aux
  | none =>
    { s with
      bitPos := if setup then 0 else s.bitPos
      parse := { ParseVars.none with
        point := if setup then .setupCount else firstPoint stage
        inSetup := setup
        stage := stage
        start := if setup then 0 else s.bitPos.toNat } }

/-- The engine runs to the end of its command: a command not entered yet is one transition (R458), one already inside its
record goes on by one field. An opcode that R102 does not assign runs R105. -/
def State.engineTurn (s : State) : Turn :=
  if s.parse.point = .none then
    match decodeField .command s.cmd.toNat with
    | .ok i => .run i s
    | .error r => .done (s.raiseError (rejectError r) ErrCtx.none)
  else s.engineField

/-- The engine moves by one field, so that a host event can land inside a decode command. -/
def State.engineMove (s : State) : Turn :=
  if s.parse.point = .none then
    match decodeField .command s.cmd.toNat with
    | .ok i =>
      match decodePlan i with
      | some (mapped, stage, setup) => .done (s.enterDecode mapped stage setup)
      | none => .run i s
    | .error r => .done (s.raiseError (rejectError r) ErrCtx.none)
  else s.engineField

/-- The next turn. A host event lands when the engine is IDLE, or at its moment while the engine is BUSY; otherwise a BUSY
engine moves. An IDLE engine with no host event waits: it "has no wake condition other than a CMD write"
(60_exceptions.md R421). -/
def State.nextTurn (s : State) : Turn :=
  match s.phase, s.bus with
  | .idle, [] => .done s
  | .idle, e :: rest => .done (({ s with bus := rest }).hostEvent e.event)
  | .busy, [] => s.engineTurn
  | .busy, e :: rest =>
    match e.wait with
    | none => s.engineTurn
    | some 0 => .done (({ s with bus := rest }).hostEvent e.event)
    | some (k + 1) => ({ s with bus := { e with wait := some k } :: rest }).engineMove

/-- The point, the stage and the running command's opcode for a fixed-value field. -/
def fieldPlace : Field → Point × Stage × Byte
  | .command => (.none, .outside, 0x00)
  | .codebookSync => (.codebookSync, .codebook, 0x10)
  | .codebookLookup => (.codebookLookup, .codebook, 0x10)
  | .floorType => (.floorType, .floor, 0x11)
  | .residueType => (.residueType, .residue, 0x12)
  | .mappingType => (.mappingType, .mapping, 0x13)
  | .mappingReserved => (.mappingReserved, .mapping, 0x13)
  | .modeWindow => (.modeWindow, .mode, 0x14)
  | .modeTransform => (.modeTransform, .mode, 0x14)
  | .tdtReserved => (.tdtReserved, .tdt, 0x15)
  | .setupFraming => (.setupFraming, .framing, 0x20)

/-- `n` payload bytes from byte `i` on that hold the value's low bits first. -/
def storePayload (m : Memory) (value : Nat) : Nat → Nat → Memory
  | 0, _ => m
  | n + 1, i => storePayload (m.set (inBase + i) (BitVec.ofNat 8 value)) (value / 256) n (i + 1)

/-- The state whose very next step fetches and runs the instruction at the field with the value: the command just
started, or a decode command standing at the field, with the value at BIT_POS 0 of a payload otherwise zero. -/
def State.placeInstr (s : State) (f : Field) (value : Nat) : State :=
  let t := { s with bus := [] }
  if f = .command then t.startCommand (BitVec.ofNat 8 value)
  else
    let bytes := if f = .setupFraming then 1 else 16
    { t.startCommand (fieldPlace f).2.2 with
      bitPos := 0
      inLen := Word.low bytes
      mem := storePayload s.mem value bytes 0
      parse := { ParseVars.none with
        point := (fieldPlace f).1
        stage := (fieldPlace f).2.1
        inSetup := f == .setupFraming } }

end Sys2Proof.Machine
end

