-- ==== Sys2Proof/Machine/Step.lean ====
section
/-!
DEFINITION. One step, and the state whose next step runs a given instruction. What a step does stands in Engine.lean.
-/

namespace Sys2Proof.Machine

/-- One step: the turn that is next, and the instruction it runs if it runs one. -/
def step (s : State) : Host.Outcome State Fault Refusal :=
  match s.nextTurn with
  | .run i t => exec i t
  | .done t => .next t

/-- The state whose very next step fetches and runs the instruction of the table word `w` (notes/assumptions/10.md and
11.md); the state itself where the word is no instruction. -/
def State.withFetchWord (s : State) (nbits w : Nat) : State :=
  match fieldOfTableWord nbits w with
  | some f => s.placeInstr f w
  | none => s

end Sys2Proof.Machine
end

