-- ==== Sys2Proof/Machine/Grammar.lean ====
section
/-!
DEFINITION. The bitstream grammar of 30_encoding.md R106 to R115 written from a record to its fields: the record formats,
as the tables give them, independent of the decoders. Where the grammar leaves an encoder a choice (the run
lengths of an ordered codebook, a residue's or a mapping's optional field, a submap's discarded byte), the fields
of a record are a relation.
-/

namespace Sys2Proof.Machine

/-- Fields in stream order, each a width and a value (R106). -/
abbrev Fields := List (Nat × Nat)

/-- The length of fields in bits. -/
def Fields.bits (fs : Fields) : Nat := (fs.map Prod.fst).sum

/-- A payload holds these fields from bit `q` on, each one whole (R106: "with no padding between them"). -/
def Payload.holds (p : Payload) : Nat → Fields → Bool
  | _, [] => true
  | q, (n, v) :: rest => (n == 0 || q + n ≤ 8 * p.len) && p.field q n == v && p.holds (q + n) rest

/-- The rows of R108 for one entry of an unordered table. -/
def entryFields (sparse : Bool) : Option Nat → Fields
  | none => [(1, 0)]
  | some l => (if sparse then [(1, 1)] else []) ++ [(5, l - 1)]

/-- The `number` fields of an ordered table from entry `e` on (R108 row 9). -/
def runFields (entries : Nat) : Nat → List Nat → Fields
  | _, [] => []
  | e, n :: rest => (ilog (entries - e), n) :: runFields entries (e + n) rest

/-- The lengths that the runs give, the first run at length `l` (43_codebook.md R236). -/
def runLengths : Nat → List Nat → List (Option Nat)
  | _, [] => []
  | l, n :: rest => List.replicate n (some l) ++ runLengths (l + 1) rest

/-- Runs that the ordered loop accepts from entry `e` and length `l` on (R236). -/
def runsOk (entries : Nat) : Nat → Nat → List Nat → Bool
  | e, _, [] => e == entries
  | e, l, n :: rest => e < entries && l ≤ 32 && e + n ≤ entries && runsOk entries (e + n) (l + 1) rest

/-- The length table of a codebook (R108 rows 5 to 9). -/
def TableFields (c : Codebook) (fs : Fields) : Prop :=
  match c.sparse with
  | some sparse =>
    fs = (1, sparse.toNat) :: c.codewordLengths.flatMap (entryFields sparse) ∧
      (sparse = false → ∀ l ∈ c.codewordLengths, l ≠ none)
  | none =>
    ∃ first runs, 1 ≤ first ∧ runsOk c.entries 0 first runs = true ∧ c.codewordLengths = runLengths first runs ∧
      fs = (5, first - 1) :: runFields c.entries 0 runs

/-- The lookup table of a codebook (R108 rows 11 to 15), from the packed words of its two floats. -/
def VectorFields (v : VectorLookupTable) (fs : Fields) : Prop :=
  ∃ minimum delta : Word,
    float32Unpack minimum = some v.minimumValue ∧ float32Unpack delta = some v.deltaValue ∧
    fs = [(32, minimum.toNat), (32, delta.toNat), (4, v.valueBits - 1), (1, v.sequenceP.toNat)] ++
      v.multiplicands.map (fun m => (v.valueBits, m))

/-- The lookup of a codebook (R108 rows 10 to 15). -/
def LookupFields (c : Codebook) (fs : Fields) : Prop :=
  match c.vectorLookupTable with
  | none => fs = [(4, 0)]
  | some v => ∃ rest, VectorFields v rest ∧ fs = (4, c.lookupType) :: rest

/-- The fields of a codebook before its lookup type, `table` those of its length table (R108 rows 1 to 9). -/
def codebookHeadFields (c : Codebook) (table : Fields) : Fields :=
  [(24, 0x564342), (16, c.dimensions), (24, c.entries), (1, c.ordered.toNat)] ++ table

/-- A codebook record (R108). -/
def CodebookFields (c : Codebook) (fs : Fields) : Prop :=
  ∃ table lookup, TableFields c table ∧ LookupFields c lookup ∧
    fs = codebookHeadFields c table ++ lookup

/-- The codebook's counts stay within the record store's capacities (00_scope.md R7). -/
def CodebookCountsFit (params : Params) (c : Codebook) : Prop :=
  overCap c.entries params.entryCap = false ∧
  ∀ v ∈ c.vectorLookupTable, overCap v.lookupValues params.multCap = false

/-- The codebook fits the record store, and its tree is the one built from its lengths (42_huffman.md R218). -/
def CodebookFits (params : Params) (c : Codebook) : Prop :=
  CodebookCountsFit params c ∧
  ∀ k, buildTree params.nodeCap 0 c.codewordLengths HuffTree.empty k = .ok c.huffmanTree k

/-- A floor type 0 record, its tag included (R109). -/
def floor0Fields (f : Floor0) : Fields :=
  [(16, 0), (8, f.order), (16, f.rate), (16, f.barkMapSize), (6, f.amplitudeBits), (8, f.amplitudeOffset),
   (4, f.numberOfBooks - 1)] ++ f.bookList.map (fun b => (8, b))

/-- One class (R110 rows 3 to 6). -/
def classFields (c : FloorClass) : Fields :=
  [(3, c.dimensions - 1), (2, c.subclasses)] ++ c.masterbooks.toList.map (fun b => (8, b)) ++
    c.subclassBooks.map (fun b => (8, (b + 1).toNat))

/-- A floor type 1 record, its tag included (R110). -/
def floor1Fields (f : Floor1) : Fields :=
  [(16, 1), (5, f.partitions)] ++ f.partitionClassList.map (fun c => (4, c)) ++ f.classes.flatMap classFields ++
    [(2, f.multiplier - 1), (4, f.rangebits)] ++ (f.xList.drop 2).map (fun x => (f.rangebits, x))

/-- A floor record (R109, R110). -/
def floorFields : Floor → Fields
  | .zero f => floor0Fields f
  | .one f => floor1Fields f

/-- One cascade byte, with or without its high part (R111 rows 7 to 9). -/
def cascadeFields (cascade : Nat) (high : Bool) : Fields :=
  if high then [(3, cascade % 8), (1, 1), (5, cascade / 8)] else [(3, cascade), (1, 0)]

/-- A residue record (R111). -/
def ResidueFields (r : Residue) (fs : Fields) : Prop :=
  ∃ high : List Bool, high.length = r.classifications ∧
    fs = [(16, r.residueType), (24, r.beginBound), (24, r.endBound), (24, r.partitionSize - 1),
        (6, r.classifications - 1), (8, r.classbook)] ++
      (r.cascade.zip high).flatMap (fun x => cascadeFields x.1 x.2) ++
      r.books.flatMap (fun row => row.flatMap (fun b => b.toList.map (fun n => (8, n))))

/-- The coupling of a mapping (R112 rows 4 to 7). -/
def couplingFields (m : Mapping) : Fields :=
  if m.couplingSteps = 0 then [(1, 0)]
  else
    [(1, 1), (8, m.couplingSteps - 1)] ++
      (m.magnitude.zip m.angle).flatMap
        (fun x => [(ilog (m.mux.length - 1), x.1), (ilog (m.mux.length - 1), x.2)])

/-- The submap count of a mapping; without its flag there is one submap (R112 rows 2 and 3). -/
def submapsFields (many : Bool) (submaps : Nat) : Fields :=
  (1, many.toNat) :: if many then [(4, submaps - 1)] else []

/-- A mapping record; the channel count is the length of its `mux` (R112). -/
def MappingFields (m : Mapping) (fs : Fields) : Prop :=
  ∃ (many : Bool) (unused : List Nat), (many = false → m.submaps = 1) ∧ unused.length = m.submaps ∧
    fs = [(16, 0)] ++ submapsFields many m.submaps ++ couplingFields m ++ [(2, 0)] ++
      (if m.submaps > 1 then m.mux.map (fun v => (4, v)) else []) ++
      (unused.zip m.submapsVec).flatMap (fun x => [(8, x.1), (8, x.2.floor), (8, x.2.residue)])

/-- A mode record (R113). -/
def modeFields (m : Mode) : Fields := [(1, m.blockflag.toNat), (16, 0), (16, 0), (8, m.mapping)]

/-- A time-domain transform record (R114). -/
def tdtFields : Fields := [(16, 0)]

/-- A count-prefixed list (R115). -/
def listFields (width : Nat) (records : List Fields) : Fields := (width, records.length - 1) :: records.flatten

/-- Each record of a list has its own fields. -/
def EachFields {α : Type} (rel : α → Fields → Prop) : List α → List Fields → Prop
  | [], [] => True
  | r :: rs, f :: fs => rel r f ∧ EachFields rel rs fs
  | [], _ :: _ => False
  | _ :: _, [] => False

/-- A setup header's six lists in their order, each with its stage, the width of its count field and the fields of its
records (R115, 48_setup.md R360). -/
def SetupLists (h : SetupHeader) (lists : List (Stage × Nat × List Fields)) : Prop :=
  ∃ codebooks residues mappings : List Fields,
    EachFields CodebookFields h.codebooks codebooks ∧ EachFields ResidueFields h.residues residues ∧
    EachFields MappingFields h.mappings mappings ∧
    lists =
      [(.codebook, 8, codebooks), (.tdt, 6, h.timeDomainTransforms.map (fun _ => tdtFields)),
       (.floor, 6, h.floors.map floorFields), (.residue, 6, residues), (.mapping, 6, mappings),
       (.mode, 6, h.modes.map modeFields)]

/-- The fields of lists that are whole. -/
def listsFields (lists : List (Stage × Nat × List Fields)) : Fields := lists.flatMap fun l => listFields l.2.1 l.2.2

/-- A setup header, its framing bit included (R115). -/
def SetupFields (h : SetupHeader) (fs : Fields) : Prop :=
  ∃ lists, SetupLists h lists ∧ fs = listsFields lists ++ [(1, 1)]

end Sys2Proof.Machine
end

