-- ==== Sys2Proof/Machine/Script.lean ====
section
/-!
DEFINITION. The command-script syntax of host programs and its bus encoding (30_encoding.md R119).
-/

namespace Sys2Proof.Machine

/-- A `<loc>`: a register, or a window name plus a byte offset (R119). -/
inductive ScriptLoc where
  | reg (r : Reg)
  | vecMem (offset : Nat)
  | lineBuf (offset : Nat)
  | huffWork (offset : Nat)
  | recStore (offset : Nat)
  | inMem (offset : Nat)
deriving DecidableEq, Repr

/-- The offset of a `<loc>` (10_state.md R33, 20_memory.md R71). -/
def ScriptLoc.offset : ScriptLoc → Nat
  | .reg r => r.offset
  | .vecMem o => vecBase + o
  | .lineBuf o => lineBase + o
  | .huffWork o => huffBase + o
  | .recStore o => recBase + o
  | .inMem o => inBase + o

/-- A line of a host program (R119). A value is an integer; a negative one stands for its two's-complement pattern. -/
inductive ScriptLine where
  | wr (loc : ScriptLoc) (value : Int)
  | rd (loc : ScriptLoc)
  | cmd (i : Instr)
  | wait
  | loadb (bytes : List Byte)
  | loadv (words : List Word)
  | expect (loc : ScriptLoc) (value : Int)
deriving DecidableEq, Repr

/-- `CMD <mnemonic>` names a command of R102, not a bitstream tag. -/
abbrev ScriptLine.wf : ScriptLine → Prop
  | .cmd i => (encode i).1 = .command
  | _ => True

/-- An access the host makes without waiting for the engine. -/
def atOnce (e : HostEvent) : Pending := ⟨some 0, e⟩

/-- One 32-bit write at a `<loc>`, from BASE. -/
def busWrite (base : Nat) (offset : Nat) (v : Word) : Pending := atOnce (.write (base + offset) .word v)

/-- The words of a byte list, little-endian, missing bytes 0 (R119 LOADB). -/
def packWords : List Byte → List Word
  | [] => []
  | [a] => [(0 : Byte) ++ (0 : Byte) ++ (0 : Byte) ++ a]
  | [a, b] => [(0 : Byte) ++ (0 : Byte) ++ b ++ a]
  | [a, b, c] => [(0 : Byte) ++ c ++ b ++ a]
  | a :: b :: c :: d :: rest => (d ++ c ++ b ++ a) :: packWords rest

/-- One write for each word, at rising offsets. -/
def busWrites (base : Nat) (offset : Nat) : List Word → List Pending
  | [] => []
  | w :: rest => busWrite base offset w :: busWrites base (offset + 4) rest

/-- The bus encoding of a line (R119). WAIT is the STATUS read that the polling loop ends with: the host waits until the
engine is IDLE. EXPECT is no bus operation. -/
def ScriptLine.bus (base : Nat) : ScriptLine → List Pending
  | .wr loc v => [busWrite base loc.offset (Word.ofI32 v)]
  | .rd loc => [atOnce (.read (base + loc.offset) .word)]
  | .cmd i =>
    match encodeCommandWord i with
    | some w => [busWrite base Reg.cmd.offset w]
    | none => []
  | .wait => [⟨none, .read (base + Reg.status.offset) .word⟩]
  | .loadb bytes => busWrites base inBase (packWords bytes) ++ [busWrite base Reg.inLen.offset (Word.low bytes.length)]
  | .loadv words => busWrites base vecBase words ++ [busWrite base Reg.vecLen.offset (Word.low words.length)]
  | .expect _ _ => []

/-- The bus encoding of a host program, in program order (R85, R119). -/
def assemble (base : Nat) (script : List ScriptLine) : List Pending := script.flatMap (ScriptLine.bus base)

end Sys2Proof.Machine
end

