-- ==== Sys2Proof/Safety.lean ====
section
/-!
DEFINITION. What counts as a safe run, the invariants of the model, and the words the statements are written in.
-/

namespace Sys2Proof.Machine

/-- No host-obligation violation is marked. "A claim about a run takes HOST_FAULT = 0 as a premise"
(60_exceptions.md R413). -/
abbrev State.hostKeptRules (s : State) : Prop := s.hostFault = false

/-- What every reachable state meets: legal parameters (00_scope.md R7), the memory's canonical form, a legal Huffman
tree that fits its arena (10_state.md R50, R51), and no parse variables while the engine is IDLE (R63, R64). -/
abbrev State.Inv (s : State) : Prop :=
  s.params.wf ∧ Memory.wf s.mem ∧ HuffTree.wf s.huffWork ∧ s.huffWork.length ≤ s.params.huffCap ∧
  (s.phase = .idle → s.parse = ParseVars.none)

/-- The error registers are clear while a command runs and after a success (60_exceptions.md R410, 10_state.md R36,
R37), and an error's code is one of R401. -/
abbrev State.errorsAgree (s : State) : Prop :=
  (s.phase = .busy → s.err = false) ∧
  (s.err = false → s.errCode = 0 ∧ s.errInfo = 0 ∧ s.errAux = 0 ∧ s.errCtx = 0) ∧
  (s.err = true → 1 ≤ s.errCode.toNat ∧ s.errCode.toNat ≤ 17)

/-- A successful completion as R44 and R48 (10_state.md) give it: both results, DONE, and the engine IDLE. -/
abbrev State.afterSuccess (s : State) (res0 res1 : Word) : State :=
  { s with res0 := res0, res1 := res1, done := true, phase := .idle, parse := ParseVars.none }

/-- An error completion as R403 (60_exceptions.md) gives it. -/
abbrev State.afterError (s : State) (code : Byte) (info aux : Word) (ctx : BitVec 16) : State :=
  { s with
    errCode := code, errInfo := info, errAux := aux, errCtx := ctx, err := true
    done := true, phase := .idle, parse := ParseVars.none }

/-- No host event is to land before the engine is IDLE again. -/
abbrev State.undisturbed (s : State) : Prop := ∀ e ∈ s.bus.head?, e.wait = none

/-- The record commands and the decode class (30_encoding.md R102). -/
def recordCommands : List Instr :=
  [.decodeCodebook, .decodeFloor, .decodeResidue, .decodeMapping, .decodeMode, .decodeTdt]
def decodeCommands : List Instr := recordCommands ++ [.decodeSetup]

/-- The engine under way inside a command, moved field by field until it is IDLE or `n` moves are spent. -/
def State.moves : Nat → State → State
  | 0, s => s
  | n + 1, s =>
    if s.phase = .idle then s
    else
      match s.engineMove with
      | .done t => State.moves n t
      | .run i t =>
        match exec i t with
        | .next u => State.moves n u
        | .fault _ => t
        | .refused _ => t

/-- The node that a path of branch bits leads to from node `n` (10_state.md R51). -/
def walk (t : HuffTree) : Nat → List Bool → Option Nat
  | n, [] => some n
  | n, b :: path =>
    match childOf t n b with
    | none => none
    | some c => walk t c path

/-- A path that is free in a tree (42_huffman.md R213): it runs through internal nodes only and ends where no node
is, so that no leaf's path is a prefix of it and it leads to no node. -/
def FreePath (t : HuffTree) (path : List Bool) : Prop :=
  walk t 0 path = none ∧ ∀ start n, start <+: path → walk t 0 start = some n → isInternalAt t n = true

/-- A finite binary32 magnitude pattern in units of 2^−149 (41_numeric.md R173: exponent [30:23] biased by 127, fraction
[22:0], subnormals at exponent 0). -/
def binary32Units (b : Nat) : Nat :=
  if b / 2 ^ 23 = 0 then b % 2 ^ 23 else (2 ^ 23 + b % 2 ^ 23) * 2 ^ (b / 2 ^ 23 - 1)

end Sys2Proof.Machine
end

