-- ==== Sys2Proof/Certificates/Slice0/Obligations.lean ====
section
/-!
DEFINITION. The statements for the provers.

`State.afterSuccess` and `State.afterError` (Safety.lean) write out the two completions, so that a result statement is an
equality of whole states and gives its frame: what it does not name keeps its value.
-/

open Sys2Proof Sys2Proof.Machine

/-! ## Encoding -/

/-- Every value at every field is read as one instruction exactly when the encoder gives that field and that value to
the instruction: no two instructions share an encoding, and what the encoder never gives is rejected. -/
def Obligations.DecodeFieldIffEncode : Prop :=
  ∀ (f : Field) (v : Nat) (i : Instr), decodeField f v = .ok i ↔ encode i = (f, v)

/-- 30_encoding.md R102: the opcode map, and every other value unassigned. -/
def Obligations.OpcodeMap : Prop :=
  decodeOpcode 0x01 = .ok .readBits ∧ decodeOpcode 0x02 = .ok .ilog ∧ decodeOpcode 0x03 = .ok .float32Unpack ∧
  decodeOpcode 0x04 = .ok .lookup1Values ∧ decodeOpcode 0x05 = .ok .lowNeighbor ∧
  decodeOpcode 0x06 = .ok .highNeighbor ∧ decodeOpcode 0x07 = .ok .renderPoint ∧
  decodeOpcode 0x08 = .ok .renderLine ∧ decodeOpcode 0x09 = .ok .huffClear ∧ decodeOpcode 0x0A = .ok .huffAddNode ∧
  decodeOpcode 0x10 = .ok .decodeCodebook ∧ decodeOpcode 0x11 = .ok .decodeFloor ∧
  decodeOpcode 0x12 = .ok .decodeResidue ∧ decodeOpcode 0x13 = .ok .decodeMapping ∧
  decodeOpcode 0x14 = .ok .decodeMode ∧ decodeOpcode 0x15 = .ok .decodeTdt ∧ decodeOpcode 0x20 = .ok .decodeSetup ∧
  ∀ op : Byte,
    (op = 0x00 ∨ (0x0B ≤ op.toNat ∧ op.toNat ≤ 0x0F) ∨ (0x16 ≤ op.toNat ∧ op.toNat ≤ 0x1F) ∨ 0x21 ≤ op.toNat) →
      decodeOpcode op.toNat = .error (.unassignedOpcode op.toNat)

/-- An instruction laid out as its encoding says (a started command, or its field at BIT_POS of a decode command that
stands there) is the one the very next step fetches, decodes and runs, in every state. -/
def Obligations.EncodedInstructionIsFetched : Prop :=
  ∀ (i : Instr) (s : State),
    step (s.placeInstr (encode i).1 (encode i).2) = exec i (s.placeInstr (encode i).1 (encode i).2)

/-! ## A step -/

/-- A step runs the decoded instruction, and adds nothing. A command that is started and not entered, with no host event
due inside it, runs whole (70_reset_and_hazards.md R458); a fixed-value field at BIT_POS that holds an instruction's
encoding is run where the engine stands at it. -/
def Obligations.StepRunsDecodedInstruction : Prop :=
  ∀ (s : State) (i : Instr), s.phase = .busy → s.undisturbed →
    (s.parse.point = .none → decodeOpcode s.cmd.toNat = .ok i → step s = exec i s) ∧
    (∀ (f : Field) (v : Nat), pointField s.parse.point = some f → encode i = (f, v) →
      s.payload.holds s.bitPos.toNat [(f.width, v)] = true → step s = exec i s)

/-- While a host event is still to land inside a command, a step moves the engine once and brings the event one move
nearer. A command that is no decode command runs whole, and an unassigned opcode raises; a decode command is refused by
its start checks or entered at its first field, its parse variables set to the record's stage and start; a tag is
run. The model's choice (notes/assumptions/12.md and 13.md). -/
def Obligations.StepMovesUnderPendingEvent : Prop :=
  ∀ (s t : State) (k : Nat) (e : HostEvent) (rest : List Pending), s.phase = .busy →
    s.bus = ⟨some (k + 1), e⟩ :: rest → t = { s with bus := ⟨some k, e⟩ :: rest } →
    (∀ i, s.parse.point = .none → decodeOpcode s.cmd.toNat = .ok i → i ∉ decodeCommands → step s = exec i t) ∧
    (s.parse.point = .none → (∀ i, decodeOpcode s.cmd.toNat ≠ .ok i) →
      step s = .next (t.afterError 17 (s.cmd.zeroExtend 32) 0 0)) ∧
    (∀ (i : Instr) (stage : Stage) (point : Point) (start : Word), s.parse.point = .none →
      decodeOpcode s.cmd.toNat = .ok i →
      (i, stage, point) ∈
        [(.decodeCodebook, .codebook, .codebookSync), (.decodeTdt, .tdt, .tdtReserved),
         (.decodeFloor, .floor, .floorType), (.decodeResidue, .residue, .residueType),
         (.decodeMapping, .mapping, .mappingType), (.decodeMode, .mode, .modeBlockflag),
         (.decodeSetup, .codebook, .setupCount)] →
      start = (if i = .decodeSetup then 0 else s.bitPos) →
      (s.params.inCap < s.inLen.toNat → step s = .next (t.afterError 15 8 s.inLen 0)) ∧
      (s.inLen.toNat ≤ s.params.inCap → (i = .decodeMapping ∨ i = .decodeSetup) → s.audioChannels = 0 →
        step s = .next (t.afterError 15 7 0 0)) ∧
      (s.inLen.toNat ≤ s.params.inCap → ((i = .decodeMapping ∨ i = .decodeSetup) → s.audioChannels ≠ 0) →
        step s = .next { t with
          bitPos := start
          parse := { ParseVars.none with
            point := point, inSetup := i == .decodeSetup, stage := stage, start := start.toNat } })) ∧
    (∀ i f v, pointField s.parse.point = some f → encode i = (f, v) →
      s.payload.holds s.bitPos.toNat [(f.width, v)] = true → step s = exec i t)

/-- A host event lands when the engine is IDLE, or at its moment inside a command; an IDLE engine with no host event
stays as it is (60_exceptions.md R421). -/
def Obligations.HostEventLands : Prop :=
  ∀ (s : State) (e : Pending) (rest : List Pending),
    (s.bus = e :: rest → (s.phase = .idle ∨ e.wait = some 0) →
      step s = .next (({ s with bus := rest }).hostEvent e.event)) ∧
    (s.bus = [] → s.phase = .idle → step s = .next s)

/-- Every step completes: "every command terminates" and the block has no stuck state (70_reset_and_hazards.md R459). -/
def Obligations.StepNeverStops : Prop := ∀ s : State, ∃ t, step s = .next t

/-- 30_encoding.md R105: an opcode that R102 does not assign raises IllegalCommand, and nothing else changes. -/
def Obligations.UnassignedOpcodeRaises : Prop :=
  ∀ s : State, s.phase = .busy → s.parse.point = .none → s.undisturbed →
    (∀ i, decodeOpcode s.cmd.toNat ≠ .ok i) → step s = .next (s.afterError 17 (s.cmd.zeroExtend 32) 0 0)

/-- 30_encoding.md R116: at a fixed-value field that is whole, a value that is no instruction ends the command with the
field's error, and BIT_POS stands after the field (40_bitreader.md R153(d)). `ctx` is the current context. -/
def Obligations.IllegalFieldValueRaises : Prop :=
  ∀ (s : State) (f : Field) (v : Nat), s.phase = .busy → s.undisturbed → pointField s.parse.point = some f →
    s.payload.holds s.bitPos.toNat [(f.width, v)] = true →
    let after : State := { s with bitPos := Word.low (s.bitPos.toNat + f.width) }
    let ctx := s.parse.ctx.word
    (f = .codebookSync → v ≠ 0x564342 → step s = .next (after.afterError 1 (Word.low v) 0 ctx)) ∧
    (f = .codebookLookup → 3 ≤ v → step s = .next (after.afterError 4 (Word.low v) 1 ctx)) ∧
    (f = .floorType → 2 ≤ v → step s = .next (after.afterError 4 (Word.low v) 2 ctx)) ∧
    (f = .residueType → 3 ≤ v → step s = .next (after.afterError 4 (Word.low v) 3 ctx)) ∧
    (f = .mappingType → v ≠ 0 → step s = .next (after.afterError 2 (Word.low v) 2 ctx)) ∧
    (f = .mappingReserved → v ≠ 0 → step s = .next (after.afterError 2 (Word.low v) 3 ctx)) ∧
    (f = .modeWindow → v ≠ 0 → step s = .next (after.afterError 2 (Word.low v) 4 ctx)) ∧
    (f = .modeTransform → v ≠ 0 → step s = .next (after.afterError 2 (Word.low v) 5 ctx)) ∧
    (f = .tdtReserved → v ≠ 0 → step s = .next (after.afterError 2 (Word.low v) 1 ctx)) ∧
    (f = .setupFraming → v = 0 → step s = .next (after.afterError 8 0 0 ctx))

/-- 10_state.md R47: a host write to CMD while IDLE starts the command, and empties the record store for a decode opcode
only. Bits [31:8] of the word are ignored (R34). -/
def Obligations.CommandWriteStarts : Prop :=
  ∀ (s : State) (w : Option Nat) (v : Word) (rest : List Pending), s.phase = .idle →
    s.bus = ⟨w, .write s.params.base .word v⟩ :: rest →
    step s = .next
      { s with
        bus := rest, cmd := v.setWidth 8, phase := .busy, done := false, err := false
        errCode := 0, errInfo := 0, errAux := 0, errCtx := 0
        record := if (v.setWidth 8 : Byte) ∈ [0x10, 0x11, 0x12, 0x13, 0x14, 0x15, 0x20] then none else s.record
        parse := ParseVars.none }

/-- 60_exceptions.md R411: the start checks of every command that has them, in their order, with ERR_CTX 0. -/
def Obligations.StartChecksRaise : Prop :=
  ∀ s : State,
    (s.params.inCap < s.inLen.toNat → exec .readBits s = .next (s.afterError 15 8 s.inLen 0)) ∧
    (s.inLen.toNat ≤ s.params.inCap → 32 < s.op0.toNat → exec .readBits s = .next (s.afterError 15 1 s.op0 0)) ∧
    (∀ i ∈ [Instr.lowNeighbor, .highNeighbor],
      (s.params.vecCap < s.vecLen.toNat → exec i s = .next (s.afterError 15 9 s.vecLen 0)) ∧
      (s.vecLen.toNat ≤ s.params.vecCap → s.vecLen.toNat ≤ s.op0.toNat →
        exec i s = .next (s.afterError 15 3 s.op0 0))) ∧
    (s.params.lineCap < s.lineLen.toNat → exec .renderLine s = .next (s.afterError 15 10 s.lineLen 0)) ∧
    (s.lineLen.toNat ≤ s.params.lineCap →
      ¬ (0 ≤ s.op0.i32 ∧ s.op0.i32 < s.op2.i32 ∧ s.op2.i32 ≤ s.lineLen.toNat) →
        exec .renderLine s = .next (s.afterError 15 6 0 0)) ∧
    (¬ (1 ≤ s.op0.toNat ∧ s.op0.toNat ≤ 32) → exec .huffAddNode s = .next (s.afterError 15 2 s.op0 0)) ∧
    (∀ i ∈ decodeCommands, s.params.inCap < s.inLen.toNat → exec i s = .next (s.afterError 15 8 s.inLen 0)) ∧
    (∀ i ∈ [Instr.decodeMapping, .decodeSetup], s.inLen.toNat ≤ s.params.inCap → s.audioChannels = 0 →
      exec i s = .next (s.afterError 15 7 0 0))

/-! ## READ_BITS and the numeric commands -/

/-- 40_bitreader.md R151, R152, R154: a field that is whole is read with its first bit lowest; a zero-width read answers
0 anywhere; a field cut short raises PrematureEndOfData and moves nothing. -/
def Obligations.ReadBitsReadsField : Prop :=
  ∀ s : State, s.inLen.toNat ≤ s.params.inCap → s.op0.toNat ≤ 32 →
    ((s.op0 = 0 ∨ s.bitPos.toNat + s.op0.toNat ≤ 8 * s.inLen.toNat) →
      ∃ v : Word, exec .readBits s = .next ({ s with bitPos := s.bitPos + s.op0 }.afterSuccess v 0) ∧
        ∀ k, v.getLsbD k =
          (decide (k < s.op0.toNat) &&
            (s.byteAt (inBase + (s.bitPos.toNat + k) / 8)).getLsbD ((s.bitPos.toNat + k) % 8))) ∧
    (s.op0 ≠ 0 → 8 * s.inLen.toNat < s.bitPos.toNat + s.op0.toNat →
      exec .readBits s = .next (s.afterError 7 s.bitPos s.op0 0))

/-- 41_numeric.md R170, R171. -/
def Obligations.IlogIsBitLength : Prop :=
  ∀ s : State, ∃ r : Nat, exec .ilog s = .next (s.afterSuccess (BitVec.ofNat 32 r) 0) ∧ r ≤ 32 ∧
    (s.op0 = 0 → r = 0) ∧ (s.op0 ≠ 0 → 1 ≤ r ∧ 2 ^ (r - 1) ≤ s.op0.toNat ∧ s.op0.toNat < 2 ^ r)

/-- 41_numeric.md R173, R174: zero mantissas, the overflow error, and otherwise the nearest finite binary32 value, ties
to even, with the operand's sign. Magnitudes are compared in units of 2^−788: the operand is `m · 2^e`, a pattern `b` is
`binary32Units b · 2^639`. -/
def Obligations.Float32UnpackRoundsToNearestEven : Prop :=
  ∀ (s : State) (m e : Nat), m = s.op0.toNat % 2 ^ 21 → e = s.op0.toNat / 2 ^ 21 % 2 ^ 10 →
    (m = 0 → exec .float32Unpack s = .next (s.afterSuccess 0 0)) ∧
    (m ≠ 0 → 2 ^ (128 + 788) ≤ m * 2 ^ e → exec .float32Unpack s = .next (s.afterError 10 s.op0 0 0)) ∧
    (m ≠ 0 → m * 2 ^ e < 2 ^ (128 + 788) →
      ∃ b < 0x7F800000,
        exec .float32Unpack s =
          .next (s.afterSuccess (BitVec.ofNat 32 ((if s.op0.getLsbD 31 then 2 ^ 31 else 0) + b)) 0) ∧
        ∀ b' < 0x7F800000,
          let error := ((binary32Units b * 2 ^ 639 : Nat) - (m * 2 ^ e : Nat) : Int).natAbs
          let error' := ((binary32Units b' * 2 ^ 639 : Nat) - (m * 2 ^ e : Nat) : Int).natAbs
          error ≤ error' ∧ (error = error' → b' = b ∨ b % 2 = 0))

/-- 41_numeric.md R176, R177. -/
def Obligations.Lookup1ValuesIsIntegerRoot : Prop :=
  ∀ s : State,
    (s.op1 ≠ 0 →
      ∃ r : Word, exec .lookup1Values s = .next (s.afterSuccess r 0) ∧
        r.toNat ^ s.op1.toNat ≤ s.op0.toNat ∧ ∀ q : Nat, q ^ s.op1.toNat ≤ s.op0.toNat → q ≤ r.toNat) ∧
    (s.op1 = 0 → s.op0 = 0 → exec .lookup1Values s = .next (s.afterSuccess 0 0)) ∧
    (s.op1 = 0 → s.op0 ≠ 0 → exec .lookup1Values s = .next (s.afterError 13 s.op0 0 0))

/-- 41_numeric.md R179, R180, R182, R183: the earlier element closest in value below or above `v[x]`, the lowest index
among equals, and NoNeighbor exactly when there is none. -/
def Obligations.NeighborsAreClosestInValue : Prop :=
  ∀ (s : State) (v : Nat → Nat) (x : Nat), s.vecLen.toNat ≤ s.params.vecCap → x = s.op0.toNat → x < s.vecLen.toNat →
    v = s.vecElem →
    ((∃ n < x, v n < v x) →
      ∃ n < x, exec .lowNeighbor s = .next (s.afterSuccess (BitVec.ofNat 32 n) 0) ∧ v n < v x ∧
        (∀ k < x, v k < v x → v k ≤ v n) ∧ (∀ k < n, v k ≠ v n)) ∧
    ((∀ n < x, v x ≤ v n) → exec .lowNeighbor s = .next (s.afterError 14 s.op0 0 0)) ∧
    ((∃ n < x, v x < v n) →
      ∃ n < x, exec .highNeighbor s = .next (s.afterSuccess (BitVec.ofNat 32 n) 0) ∧ v x < v n ∧
        (∀ k < x, v x < v k → v n ≤ v k) ∧ (∀ k < n, v k ≠ v n)) ∧
    ((∀ n < x, v n ≤ v x) → exec .highNeighbor s = .next (s.afterError 14 s.op0 1 0))

/-- 41_numeric.md R184, R185: every operand value, the two contract errors included. Between its ends, whichever way round
they are given, the interpolation completes, stays between y0 and y1, and meets both ends. -/
def Obligations.RenderPointInterpolates : Prop :=
  ∀ (s : State) (x0 y0 x1 y1 x off y : Int), x0 = s.op0.toInt → y0 = s.op1.toInt → x1 = s.op2.toInt →
    y1 = s.op3.toInt → x = s.op4.toInt → off = ((y1 - y0).natAbs * (x - x0)).tdiv (x1 - x0) →
    y = (if y1 - y0 < 0 then y0 - off else y0 + off) →
    (x0 = x1 → exec .renderPoint s = .next (s.afterError 15 4 0 0)) ∧
    (x0 ≠ x1 → -2 ^ 31 ≤ y → y < 2 ^ 31 → exec .renderPoint s = .next (s.afterSuccess (BitVec.ofInt 32 y) 0)) ∧
    (x0 ≠ x1 → (y < -2 ^ 31 ∨ 2 ^ 31 ≤ y) → exec .renderPoint s = .next (s.afterError 15 5 0 0)) ∧
    (x0 ≠ x1 → min x0 x1 ≤ x → x ≤ max x0 x1 →
      ∃ r : Word, exec .renderPoint s = .next (s.afterSuccess r 0) ∧ min y0 y1 ≤ r.toInt ∧ r.toInt ≤ max y0 y1 ∧
        (x = x0 → r.toInt = y0) ∧ (x = x1 → r.toInt = y1))

/-- 41_numeric.md R186, R188: a line within bounds completes; every element of `x0..x1` holds `render_point` there, which
lies between y0 and y1, and every byte outside those elements keeps its value. -/
def Obligations.RenderLineDrawsRenderPoint : Prop :=
  ∀ s : State, s.lineLen.toNat ≤ s.params.lineCap → 0 ≤ s.op0.toInt → s.op0.toInt < s.op2.toInt →
    s.op2.toInt ≤ s.lineLen.toNat →
    ∃ m : Memory, exec .renderLine s = .next ({ s with mem := m }.afterSuccess 0 0) ∧
      (∀ x : Nat, s.op0.toNat ≤ x → x < s.op2.toNat →
        ∃ y : Int, renderPoint s.op0.toInt s.op1.toInt s.op2.toInt s.op3.toInt x = some y ∧
          min s.op1.toInt s.op3.toInt ≤ y ∧ y ≤ max s.op1.toInt s.op3.toInt ∧
          ({ s with mem := m }).lineElem x = BitVec.ofInt 32 y) ∧
      (∀ a : Nat, (a < lineOffset s.op0.toNat ∨ lineOffset s.op2.toNat ≤ a) →
        ({ s with mem := m }).byteAt a = s.byteAt a)

/-! ## The Huffman commands -/

/-- 42_huffman.md R214: the empty tree, HUFF_COUNT 1, and its one node's four words (20_memory.md R75). -/
def Obligations.HuffClearEmptiesArena : Prop :=
  ∀ s : State, ∃ t, exec .huffClear s = .next t ∧
    t = ({ s with huffWork := [.internal none none] }).afterSuccess 0 0 ∧ t.huffCount = 1 ∧
    t.huffWord 0 0 = 0 ∧ t.huffWord 0 1 = 0xFFFFFFFF ∧ t.huffWord 0 2 = 0xFFFFFFFF ∧ t.huffWord 0 3 = 0 ∧
    ∀ n w, 1 ≤ n → t.huffWord n w = 0

/-- 42_huffman.md R211 to R213, R215, R216, on any tree of R51: with a length of 1 to 32, HUFF_ADD_NODE puts the symbol on
the free path of that length that is smallest in the codeword order, when the grown tree fits HUFF_CAP. The new
nodes are the ones below the deepest node that was on the path, the leaf is the last of them, every other path
and every leaf's symbol stays, and the tree is again a tree of R51. A tree that would not fit raises
CapacityExceeded; no free path raises HuffmanNoRoom; both leave the arena. -/
def Obligations.HuffAddNodeTakesLeastFreePath : Prop :=
  ∀ s : State, HuffTree.wf s.huffWork → 1 ≤ s.op0.toNat → s.op0.toNat ≤ 32 →
    ((∀ w : List Bool, w.length = s.op0.toNat → ¬ FreePath s.huffWork w) →
      exec .huffAddNode s = .next (s.afterError 9 s.op1 s.op0 0)) ∧
    ∀ w : List Bool, w.length = s.op0.toNat → FreePath s.huffWork w →
      (∀ w' : List Bool, w'.length = s.op0.toNat → FreePath s.huffWork w' → codewordValue w ≤ codewordValue w') →
      ∃ (t : HuffTree) (depth : Nat),
        depth < w.length ∧ walk s.huffWork 0 (w.take depth) ≠ none ∧ walk s.huffWork 0 (w.take (depth + 1)) = none ∧
        t.length = s.huffWork.length + (w.length - depth) ∧
        HuffTree.wf t ∧
        walk t 0 w = some (t.length - 1) ∧ t[t.length - 1]? = some (.leaf s.op1) ∧
        (∀ p : List Bool, ¬ p <+: w → walk t 0 p = walk s.huffWork 0 p) ∧
        (∀ p : List Bool, p <+: w → ∀ n, walk s.huffWork 0 p = some n → walk t 0 p = some n) ∧
        (∀ n < s.huffWork.length, ∀ x, t[n]? = some (.leaf x) ↔ s.huffWork[n]? = some (.leaf x)) ∧
        (t.length ≤ s.params.huffCap →
          exec .huffAddNode s =
            .next (({ s with huffWork := t }).afterSuccess (Word.low (t.length - 1)) (Word.low (codewordValue w)))) ∧
        (s.params.huffCap < t.length →
          exec .huffAddNode s = .next (s.afterError 16 (Word.low t.length) 4 0))

/-! ## The record commands -/

/-- 47_mode_tdt.md R344, R345 and 30_encoding.md R114: a 16-bit field that is 0 gives the record, one that is not gives
ReservedFieldViolation after the field, and one that is cut short gives PrematureEndOfData before it. -/
def Obligations.DecodeTdtCases : Prop :=
  ∀ s : State, s.inLen.toNat ≤ s.params.inCap →
    (s.payload.holds s.bitPos.toNat [(16, 0)] = true →
      exec .decodeTdt s =
        .next (({ s with bitPos := s.bitPos + 16, record := some (.tdt ⟨0⟩) }).afterSuccess 16 0)) ∧
    (∀ v, v ≠ 0 → s.payload.holds s.bitPos.toNat [(16, v)] = true →
      exec .decodeTdt s = .next (({ s with bitPos := s.bitPos + 16 }).afterError 2 (Word.low v) 1 0x0002)) ∧
    (8 * s.inLen.toNat < s.bitPos.toNat + 16 → exec .decodeTdt s = .next (s.afterError 7 s.bitPos 16 0x0002))

/-- 47_mode_tdt.md R340 to R342 and 30_encoding.md R113: every legal mode record, and the two reserved-field errors, each
raised right after its field. -/
def Obligations.DecodeModeCases : Prop :=
  ∀ s : State, s.inLen.toNat ≤ s.params.inCap →
    (∀ m : Mode, m.wf → s.payload.holds s.bitPos.toNat (modeFields m) = true →
      exec .decodeMode s =
        .next (({ s with bitPos := s.bitPos + 41, record := some (.mode m) }).afterSuccess 41 0)) ∧
    (∀ b v, v ≠ 0 → s.payload.holds s.bitPos.toNat [(1, b), (16, v)] = true →
      exec .decodeMode s = .next (({ s with bitPos := s.bitPos + 17 }).afterError 2 (Word.low v) 4 0x0006)) ∧
    (∀ b v, v ≠ 0 → s.payload.holds s.bitPos.toNat [(1, b), (16, 0), (16, v)] = true →
      exec .decodeMode s = .next (({ s with bitPos := s.bitPos + 33 }).afterError 2 (Word.low v) 5 0x0006))

/-- 44_floor.md R271 to R280, R283 and 30_encoding.md R109, R110: a payload that holds the fields of a legal floor record
gives exactly that record and consumes exactly its bits. -/
def Obligations.DecodeFloorReadsGrammar : Prop :=
  ∀ (s : State) (f : Floor), s.inLen.toNat ≤ s.params.inCap → Floor.wf f →
    s.payload.holds s.bitPos.toNat (floorFields f) = true →
    exec .decodeFloor s =
      .next (({ s with
        bitPos := Word.low (s.bitPos.toNat + Fields.bits (floorFields f))
        record := some (.floor f) }).afterSuccess (Word.low (Fields.bits (floorFields f))) 0)

/-- 44_floor.md R271, R277, R281: the floor errors and where the cursor stands. -/
def Obligations.DecodeFloorErrors : Prop :=
  ∀ s : State, s.inLen.toNat ≤ s.params.inCap →
    (∀ v, 2 ≤ v → s.payload.holds s.bitPos.toNat [(16, v)] = true →
      exec .decodeFloor s = .next (({ s with bitPos := s.bitPos + 16 }).afterError 4 (Word.low v) 2 0x0003)) ∧
    (s.payload.holds s.bitPos.toNat [(16, 1), (5, 0)] = true →
      exec .decodeFloor s = .next (({ s with bitPos := s.bitPos + 21 }).afterError 11 0 0 0x0003)) ∧
    (∀ f : Floor1, 1 ≤ f.partitions → f.partitionClassList.length = f.partitions →
      f.maximumClass = f.partitionClassList.foldr max 0 → f.classes.length = f.maximumClass + 1 →
      (∀ c ∈ f.classes, c.wf) → 1 ≤ f.multiplier →
      f.xList.length = 2 + (f.partitionClassList.map (classDimensions f.classes)).sum → 65 < f.xList.length →
      s.payload.holds s.bitPos.toNat (floor1Fields f) = true →
      exec .decodeFloor s =
        .next (({ s with bitPos := Word.low (s.bitPos.toNat + Fields.bits (floor1Fields f)) }).afterError
          3 (Word.low f.xList.length) 65 0x0003))

/-- 45_residue.md R300 to R304 and 30_encoding.md R111: a payload that holds the fields of a legal residue record gives
exactly that record; an illegal type gives InvalidEnumValue after the tag. -/
def Obligations.DecodeResidueReadsGrammar : Prop :=
  ∀ s : State, s.inLen.toNat ≤ s.params.inCap →
    (∀ (r : Residue) (fs : Fields), r.wf → ResidueFields r fs → s.payload.holds s.bitPos.toNat fs = true →
      exec .decodeResidue s =
        .next (({ s with
          bitPos := Word.low (s.bitPos.toNat + fs.bits), record := some (.residue r) }).afterSuccess
            (Word.low fs.bits) 0)) ∧
    (∀ v, 3 ≤ v → s.payload.holds s.bitPos.toNat [(16, v)] = true →
      exec .decodeResidue s = .next (({ s with bitPos := s.bitPos + 16 }).afterError 4 (Word.low v) 3 0x0004))

/-- 46_mapping.md R320 to R327 and 30_encoding.md R112: a payload that holds the fields of a legal mapping record for
AUDIO_CHANNELS channels gives exactly that record. -/
def Obligations.DecodeMappingReadsGrammar : Prop :=
  ∀ (s : State) (m : Mapping) (fs : Fields), s.inLen.toNat ≤ s.params.inCap → s.audioChannels ≠ 0 → m.wf →
    m.mux.length = s.audioChannels.toNat → MappingFields m fs → s.payload.holds s.bitPos.toNat fs = true →
    exec .decodeMapping s =
      .next (({ s with
        bitPos := Word.low (s.bitPos.toNat + fs.bits), record := some (.mapping m) }).afterSuccess
          (Word.low fs.bits) 0)

/-- 46_mapping.md R320, R322, R324, R325: the mapping errors, each right after the field or the pair it tests. A legal
submaps field, with or without its flag, a legal coupling and legal pairs or mux values may come before. -/
def Obligations.DecodeMappingErrors : Prop :=
  ∀ (s : State) (ch : Nat), s.inLen.toNat ≤ s.params.inCap → ch = s.audioChannels.toNat → ch ≠ 0 →
    let fail (fs : Fields) (code : Byte) (info aux : Nat) : Prop :=
      s.payload.holds s.bitPos.toNat fs = true →
        exec .decodeMapping s =
          .next (({ s with bitPos := Word.low (s.bitPos.toNat + fs.bits) }).afterError
            code (Word.low info) (Word.low aux) 0x0005)
    (∀ v, v ≠ 0 → fail [(16, v)] 2 v 2) ∧
    (∀ (many : Bool) (submaps steps : Nat) (good : List (Nat × Nat)) (m a : Nat), good.length ≤ steps →
      (∀ p ∈ good, p.1 ≠ p.2 ∧ p.1 < ch ∧ p.2 < ch) → (m = a ∨ ch ≤ m ∨ ch ≤ a) →
      fail ([(16, 0)] ++ submapsFields many submaps ++ [(1, 1), (8, steps)] ++
        (good ++ [(m, a)]).flatMap (fun p => [(ilog (ch - 1), p.1), (ilog (ch - 1), p.2)])) 5 m a) ∧
    ∀ (many : Bool) (r : Mapping), r.wf → r.mux.length = ch → (many = false → r.submaps = 1) →
      let before := [(16, 0)] ++ submapsFields many r.submaps ++ couplingFields r
      (∀ v, v ≠ 0 → fail (before ++ [(2, v)]) 2 v 3) ∧
      (∀ (good : List Nat) (v : Nat), 2 ≤ r.submaps → good.length < ch → (∀ x ∈ good, x < r.submaps) →
        r.submaps ≤ v → fail (before ++ [(2, 0)] ++ (good ++ [v]).map (fun x => (4, x))) 6 v r.submaps)

/-- 43_codebook.md R230 to R240 and 30_encoding.md R108: a payload that holds the fields of a legal codebook, ordered or
not, with any lookup type, gives exactly that record, its Huffman tree built from its lengths. -/
def Obligations.DecodeCodebookReadsGrammar : Prop :=
  ∀ (s : State) (c : Codebook) (fs : Fields), s.inLen.toNat ≤ s.params.inCap → c.wf → CodebookFits s.params c →
    CodebookFields c fs → s.payload.holds s.bitPos.toNat fs = true →
    exec .decodeCodebook s =
      .next (({ s with
        bitPos := Word.low (s.bitPos.toNat + fs.bits), record := some (.codebook c) }).afterSuccess
          (Word.low fs.bits) 0)

/-- 43_codebook.md R231, R232, R236, R237, R238 and 60_exceptions.md R412: the codebook errors that one field or one run
shows, with the cursor after what was read. The errors of the lookup come after any legal length table: dense, sparse or
ordered (the lookup and the tree of `c` are not used). -/
def Obligations.DecodeCodebookErrors : Prop :=
  ∀ s : State, s.inLen.toNat ≤ s.params.inCap →
    let fail (fs : Fields) (code : Byte) (info aux : Nat) : Prop :=
      s.payload.holds s.bitPos.toNat fs = true →
        exec .decodeCodebook s =
          .next (({ s with bitPos := Word.low (s.bitPos.toNat + fs.bits) }).afterError
            code (Word.low info) (Word.low aux) 0x0001)
    (∀ v, v ≠ 0x564342 → fail [(24, v)] 1 v 0) ∧
    (∀ dimensions entries, overCap entries s.params.entryCap = true →
      fail [(24, 0x564342), (16, dimensions), (24, entries)] 16 entries 1) ∧
    (∀ (dimensions entries first : Nat) (runs : List Nat), overCap entries s.params.entryCap = false → 1 ≤ first →
      runs.sum < entries →
      let before : Fields := [(24, 0x564342), (16, dimensions), (24, entries), (1, 1), (5, first - 1)]
      (∀ number, first + runs.length ≤ 32 → entries < runs.sum + number →
        fail (before ++ runFields entries 0 (runs ++ [number])) 3 (runs.sum + number) entries) ∧
      (first + runs.length = 33 → fail (before ++ runFields entries 0 runs) 12 33 runs.sum)) ∧
    ∀ (c : Codebook) (table : Fields), c.wf → overCap c.entries s.params.entryCap = false → TableFields c table →
      let head := codebookHeadFields c table
      (∀ v, 3 ≤ v → fail (head ++ [(4, v)]) 4 v 1) ∧
      ∀ (lookupType x y bits seq : Nat), (lookupType = 1 ∨ lookupType = 2) →
        (float32Unpack (Word.low x) = none → fail (head ++ [(4, lookupType), (32, x)]) 10 x 0) ∧
        (float32Unpack (Word.low x) ≠ none →
          (float32Unpack (Word.low y) = none → fail (head ++ [(4, lookupType), (32, x), (32, y)]) 10 y 0) ∧
          (float32Unpack (Word.low y) ≠ none →
            let shape := head ++ [(4, lookupType), (32, x), (32, y), (4, bits), (1, seq)]
            (lookupType = 1 → c.dimensions = 0 → c.entries ≠ 0 → fail shape 13 c.entries 0) ∧
            (∀ v : VectorLookupTable, v.countOk lookupType c.entries c.dimensions →
              overCap v.lookupValues s.params.multCap = true → fail shape 16 v.lookupValues 2)))

/-- 43_codebook.md R239 with 42_huffman.md R211, R218: the tree is built after the whole record has been read, with any
length table and any lookup. The first symbol with no free path raises HuffmanNoRoom, and the first whose insertion, on
the least free path of its length, gives more nodes than NODE_CAP raises CapacityExceeded, both with the cursor at the
record's end. The tree of `c` is not used. -/
def Obligations.DecodeCodebookHuffmanRaisesLast : Prop :=
  ∀ (s : State) (c : Codebook) (before after : List (Option Nat)) (length : Nat) (tree : HuffTree) (fs : Fields),
    s.inLen.toNat ≤ s.params.inCap → c.wf → CodebookCountsFit s.params c → CodebookFields c fs →
    s.payload.holds s.bitPos.toNat fs = true → c.codewordLengths = before ++ some length :: after →
    (∀ k, buildTree s.params.nodeCap 0 before HuffTree.empty k = .ok tree k) →
    let atEnd : State := { s with bitPos := Word.low (s.bitPos.toNat + fs.bits) }
    ((∀ w : List Bool, w.length = length → ¬ FreePath tree w) →
      exec .decodeCodebook s = .next (atEnd.afterError 9 (Word.low before.length) (Word.low length) 0x0001)) ∧
    ∀ (w : List Bool) (depth nodes : Nat), w.length = length → FreePath tree w →
      (∀ w' : List Bool, w'.length = length → FreePath tree w' → codewordValue w ≤ codewordValue w') →
      depth < length → walk tree 0 (w.take depth) ≠ none → walk tree 0 (w.take (depth + 1)) = none →
      nodes = tree.length + (length - depth) → overCap nodes s.params.nodeCap = true →
      exec .decodeCodebook s = .next (atEnd.afterError 16 (Word.low nodes) 3 0x0001)

/-- 60_exceptions.md R405(b) and (d), R406: a record cut short anywhere, even at a field with one legal value, ends with
PrematureEndOfData at the field that does not fit, whose position and width it reports. Every kind of record; a
codebook's lengths need not build a tree. -/
def Obligations.CutRecordEndsPrematurely : Prop :=
  ∀ (s : State) (i : Instr) (fs before after : Fields) (n v : Nat) (ctx : BitVec 16),
    s.inLen.toNat ≤ s.params.inCap →
    ((∃ c : Codebook, c.wf ∧ CodebookCountsFit s.params c ∧ CodebookFields c fs ∧ i = .decodeCodebook ∧
        ctx = 0x0001) ∨
      (fs = tdtFields ∧ i = .decodeTdt ∧ ctx = 0x0002) ∨
      (∃ f : Floor, Floor.wf f ∧ fs = floorFields f ∧ i = .decodeFloor ∧ ctx = 0x0003) ∨
      (∃ r : Residue, r.wf ∧ ResidueFields r fs ∧ i = .decodeResidue ∧ ctx = 0x0004) ∨
      (∃ m : Mapping, m.wf ∧ m.mux.length = s.audioChannels.toNat ∧ s.audioChannels ≠ 0 ∧ MappingFields m fs ∧
        i = .decodeMapping ∧ ctx = 0x0005) ∨
      (∃ m : Mode, m.wf ∧ fs = modeFields m ∧ i = .decodeMode ∧ ctx = 0x0006)) →
    fs = before ++ (n, v) :: after → n ≠ 0 → s.payload.holds s.bitPos.toNat before = true →
    8 * s.inLen.toNat < s.bitPos.toNat + before.bits + n →
    exec i s =
      .next (({ s with bitPos := Word.low (s.bitPos.toNat + before.bits) }).afterError
        7 (Word.low (s.bitPos.toNat + before.bits)) (Word.low n) ctx)

/-- 43_codebook.md R241: what every accepted codebook meets. -/
def Obligations.AcceptedCodebookProperties : Prop :=
  ∀ (s t : State) (c : Codebook), s.record = none → exec .decodeCodebook s = .next t →
    t.record = some (.codebook c) →
    c.codewordLengths.length = c.entries ∧ (∀ l, some l ∈ c.codewordLengths → 1 ≤ l ∧ l ≤ 32) ∧
    (c.sparse = none ↔ c.ordered = true) ∧ (c.ordered = true → none ∉ c.codewordLengths) ∧
    (c.vectorLookupTable ≠ none ↔ c.lookupType = 1 ∨ c.lookupType = 2) ∧
    (∀ v, c.vectorLookupTable = some v → v.multiplicands.length = v.lookupValues) ∧
    (∀ (sym length : Nat), c.codewordLengths[sym]? = some (some length) ↔
      sym < c.entries ∧ ∃ (path : List Bool) (n : Nat), path.length = length ∧
        walk c.huffmanTree 0 path = some n ∧ c.huffmanTree[n]? = some (.leaf (Word.low sym))) ∧
    (∀ (path : List Bool) (n : Nat) (x : Word), walk c.huffmanTree 0 path = some n →
      c.huffmanTree[n]? = some (.leaf x) → x.toNat < c.entries) ∧
    (c.sparse = some false → c.lookupType = 0 → t.res0 = Word.low (24 + 16 + 24 + 1 + 1 + 5 * c.entries + 4))

/-- 44_floor.md R275: what every accepted type 1 floor meets. -/
def Obligations.AcceptedFloor1Properties : Prop :=
  ∀ (s t : State) (f : Floor1), s.record = none → exec .decodeFloor s = .next t →
    t.record = some (.floor (.one f)) →
    f.xList.length ≤ 65 ∧
    f.xList.length = 2 + (f.partitionClassList.map (classDimensions f.classes)).sum ∧
    1 ≤ f.partitions ∧ f.partitions ≤ 31 ∧
    (f.maximumClass ∈ f.partitionClassList ∧ ∀ c ∈ f.partitionClassList, c ≤ f.maximumClass) ∧
    f.classes.length = f.maximumClass + 1 ∧
    f.xList[0]? = some 0 ∧ f.xList[1]? = some (2 ^ f.rangebits) ∧ (∀ x ∈ f.xList.drop 2, x < 2 ^ f.rangebits)

/-- 45_residue.md R305 and 46_mapping.md R328: what every accepted residue and mapping meets. -/
def Obligations.AcceptedResidueAndMappingProperties : Prop :=
  ∀ s t : State, s.record = none →
    (∀ r : Residue, exec .decodeResidue s = .next t → t.record = some (.residue r) →
      r.cascade.length = r.classifications ∧ r.books.length = r.classifications ∧
      (∀ row ∈ r.books, row.length = 8) ∧
      (∀ (i j : Nat) (c : Nat) (row : List (Option Nat)), r.cascade[i]? = some c → r.books[i]? = some row → j < 8 →
        ((∃ b, row[j]? = some (some b)) ↔ c.testBit j = true)) ∧
      1 ≤ r.partitionSize) ∧
    (∀ m : Mapping, exec .decodeMapping s = .next t → t.record = some (.mapping m) →
      m.mappingType = 0 ∧ m.magnitude.length = m.couplingSteps ∧ m.angle.length = m.couplingSteps ∧
      (∀ (k a b : Nat), m.magnitude[k]? = some a → m.angle[k]? = some b →
        a ≠ b ∧ a < s.audioChannels.toNat ∧ b < s.audioChannels.toNat) ∧
      m.mux.length = s.audioChannels.toNat ∧ (∀ v ∈ m.mux, v < m.submaps) ∧
      m.submapsVec.length = m.submaps)

/-! ## DECODE_SETUP -/

/-- 48_setup.md R360, R361, R364, R365 and 30_encoding.md R115: a payload that holds the fields of a legal header from bit
0 on, and no whole byte after the framing bit's, gives exactly that header, whatever BIT_POS was. -/
def Obligations.DecodeSetupReadsGrammar : Prop :=
  ∀ (s : State) (h : SetupHeader) (fs : Fields), s.inLen.toNat ≤ s.params.inCap → s.audioChannels ≠ 0 → h.wf →
    (∀ c ∈ h.codebooks, CodebookFits s.params c) →
    (∀ m ∈ h.mappings, m.mux.length = s.audioChannels.toNat) →
    SetupFields h fs → s.payload.holds 0 fs = true → 8 * s.inLen.toNat < fs.bits + 8 →
    exec .decodeSetup s =
      .next (({ s with bitPos := Word.low fs.bits, record := some (.setup h) }).afterSuccess (Word.low fs.bits) 0)

/-- 48_setup.md R365, R366: after the mode list, a framing bit of 0 and whole bytes left over are the two errors of code 8,
in stage 7; no header is emitted. -/
def Obligations.DecodeSetupFramingErrors : Prop :=
  ∀ (s : State) (h : SetupHeader) (fs body : Fields), s.inLen.toNat ≤ s.params.inCap → s.audioChannels ≠ 0 → h.wf →
    (∀ c ∈ h.codebooks, CodebookFits s.params c) →
    (∀ m ∈ h.mappings, m.mux.length = s.audioChannels.toNat) →
    SetupFields h fs → fs = body ++ [(1, 1)] →
    (s.payload.holds 0 (body ++ [(1, 0)]) = true →
      exec .decodeSetup s = .next (({ s with bitPos := Word.low fs.bits }).afterError 8 0 0 0x0007)) ∧
    (s.payload.holds 0 fs = true → fs.bits + 8 ≤ 8 * s.inLen.toNat →
      exec .decodeSetup s =
        .next (({ s with bitPos := Word.low fs.bits }).afterError
          8 1 (Word.low (s.inLen.toNat - (fs.bits + 7) / 8)) 0x0007)) ∧
    (s.payload.holds 0 body = true → 8 * s.inLen.toNat ≤ body.bits →
      exec .decodeSetup s =
        .next (({ s with bitPos := Word.low body.bits }).afterError 7 (Word.low body.bits) 1 0x0007))

/-- 48_setup.md R360, R363 and 10_state.md R37: inside DECODE_SETUP, after lists that are whole, a count field cut short
raises PrematureEndOfData with IN_COUNT 1 in its list's stage; and after records of the list that are legal, the error
of the next record is the error its own command raises at the same bit, with the record's index in ERR_CTX. Every list;
what the payload holds of `h` are the lists of `done` and the records of `good`. -/
def Obligations.SetupPropagatesFirstError : Prop :=
  ∀ (s : State) (h : SetupHeader) (lists done rest : List (Stage × Nat × List Fields)) (stage : Stage) (width : Nat)
    (records : List Fields) (start : Nat), s.params.wf → s.inLen.toNat ≤ s.params.inCap → s.audioChannels ≠ 0 →
    s.err = false → h.wf → (∀ c ∈ h.codebooks, CodebookFits s.params c) →
    (∀ m ∈ h.mappings, m.mux.length = s.audioChannels.toNat) → SetupLists h lists →
    lists = done ++ (stage, width, records) :: rest → start = Fields.bits (listsFields done) →
    (s.payload.holds 0 (listsFields done) = true → 8 * s.inLen.toNat < start + width →
      exec .decodeSetup s =
        .next (({ s with bitPos := Word.low start }).afterError 7 (Word.low start) (Word.low width)
          (BitVec.ofNat 16 (stage.code + 16)))) ∧
    (∀ (i : Instr) (count pos : Nat) (good more : List Fields) (t : State),
      (stage, i) ∈
        [(.codebook, .decodeCodebook), (.tdt, .decodeTdt), (.floor, .decodeFloor), (.residue, .decodeResidue),
         (.mapping, .decodeMapping), (.mode, .decodeMode)] →
      records = good ++ more → good.length ≤ count → pos = start + width + Fields.bits good.flatten →
      s.payload.holds 0 (listsFields done ++ (width, count) :: good.flatten) = true →
      exec i { s with bitPos := Word.low pos } = .next t → t.err = true →
      exec .decodeSetup s =
        .next (({ s with bitPos := t.bitPos }).afterError t.errCode t.errInfo t.errAux
          (BitVec.ofNat 16 (stage.code + 256 * good.length))))

/-- 48_setup.md R361, R362 with the records' own properties: every accepted header is well formed. -/
def Obligations.AcceptedSetupIsWellFormed : Prop :=
  ∀ (s t : State) (r : Record), s.record = none → exec .decodeSetup s = .next t → t.record = some r →
    ∃ h : SetupHeader, r = .setup h ∧ h.wf ∧ ∀ m ∈ h.mappings, m.mux.length = s.audioChannels.toNat

/-! ## The bitstream tags -/

/-- The tags that select nothing: their field is consumed and the engine goes on to the next field (R231, R320, R324,
R340). The points are the model's (notes/assumptions/12.md). -/
def Obligations.PassTagsConsumeTheirField : Prop :=
  ∀ (s : State) (i : Instr) (n v : Nat) (point : Point),
    (i, n, v, point) ∈ [(.codebookSync, 24, 0x564342, Point.codebookTable), (.mappingType0, 16, 0, .mappingCoupling),
      (.mappingReserved, 2, 0, .mappingMux), (.modeWindowType0, 16, 0, .modeTransform),
      (.modeTransformType0, 16, 0, .modeMapping)] →
    s.payload.holds s.bitPos.toNat [(n, v)] = true →
    exec i s = .next { s with
      bitPos := Word.low (s.bitPos.toNat + n), parse := { s.parse with point := point } }

/-- 43_codebook.md R237, R238: a lookup type's tag, with the vector lookup table it selects. -/
def Obligations.LookupTagsReadTheirTable : Prop :=
  ∀ s : State,
    (s.payload.holds s.bitPos.toNat [(4, 0)] = true →
      exec .codebookLookupNone s = .next { s with
        bitPos := Word.low (s.bitPos.toNat + 4)
        parse := { s.parse with lookupType := 0, vectorTable := none, point := .codebookTree } }) ∧
    (∀ (i : Instr) (lookupType : Nat) (v : VectorLookupTable) (rest : Fields),
      (i, lookupType) ∈ [(Instr.codebookLookupType1, 1), (.codebookLookupType2, 2)] → v.wf →
      v.countOk lookupType s.parse.book.entries s.parse.book.dimensions →
      s.parse.book.entries < 2 ^ 24 → s.parse.book.dimensions < 2 ^ 16 →
      overCap v.lookupValues s.params.multCap = false → VectorFields v rest →
      s.payload.holds s.bitPos.toNat ((4, lookupType) :: rest) = true →
      exec i s = .next { s with
        bitPos := Word.low (s.bitPos.toNat + 4 + rest.bits)
        parse := { s.parse with lookupType := lookupType, vectorTable := some v, point := .codebookTree } })

/-- The tags that a whole record follows (44_floor.md R271 to R281, 45_residue.md R300 to R303, 47_mode_tdt.md R344). In the
record's own command the record is emitted and RES0 counts from the command's start. Inside DECODE_SETUP the
record is appended to its list, and the engine goes on to the list's next record, or after the last one to the
next list's count (48_setup.md R360). -/
def Obligations.RecordTagsReadTheirRecord : Prop :=
  ∀ (s : State) (i : Instr) (r : Record) (fs : Fields) (stage next : Stage),
    ((∃ f : Floor0, f.wf ∧ fs = floor0Fields f ∧ r = .floor (.zero f) ∧ i = .floorType0 ∧ stage = .floor ∧
        next = .residue) ∨
      (∃ f : Floor1, f.wf ∧ fs = floor1Fields f ∧ r = .floor (.one f) ∧ i = .floorType1 ∧ stage = .floor ∧
        next = .residue) ∨
      (∃ x : Residue, x.wf ∧ ResidueFields x fs ∧ r = .residue x ∧ stage = .residue ∧ next = .mapping ∧
        (x.residueType, i) ∈ [(0, Instr.residueType0), (1, .residueType1), (2, .residueType2)]) ∨
      (fs = tdtFields ∧ r = .tdt ⟨0⟩ ∧ i = .tdtReserved ∧ stage = .tdt ∧ next = .floor)) →
    s.payload.holds s.bitPos.toNat fs = true →
    (s.parse.inSetup = false →
      exec i s =
        .next (({ s with bitPos := Word.low (s.bitPos.toNat + fs.bits), record := some r }).afterSuccess
          (Word.low (s.bitPos.toNat + fs.bits - s.parse.start)) 0)) ∧
    (s.parse.inSetup = true → s.parse.stage = stage → 1 < s.parse.left →
      exec i s = .next { s with
        bitPos := Word.low (s.bitPos.toNat + fs.bits)
        parse := { s.parse with
          header := pushRecord s.parse.header r, left := s.parse.left - 1, point := firstPoint stage } }) ∧
    (s.parse.inSetup = true → s.parse.stage = stage → s.parse.left ≤ 1 →
      exec i s = .next { s with
        bitPos := Word.low (s.bitPos.toNat + fs.bits)
        parse := { s.parse with
          header := pushRecord s.parse.header r, left := 0, stage := next, point := .setupCount } })

/-- 48_setup.md R365: the framing bit's tag emits the header when no whole byte is left, and raises code 8 with the number
of bytes left otherwise. -/
def Obligations.FramingTagEndsSetup : Prop :=
  ∀ (s : State) (left : Nat), s.payload.holds s.bitPos.toNat [(1, 1)] = true →
    left = s.inLen.toNat - (s.bitPos.toNat + 1 + 7) / 8 →
    (left = 0 →
      exec .setupFraming s =
        .next (({ s with
          bitPos := Word.low (s.bitPos.toNat + 1), record := some (.setup s.parse.header) }).afterSuccess
            (Word.low (s.bitPos.toNat + 1 - s.parse.start)) 0)) ∧
    (left ≠ 0 →
      exec .setupFraming s =
        .next (({ s with bitPos := Word.low (s.bitPos.toNat + 1) }).afterError 8 1 (Word.low left) s.parse.ctx.word))

/-- The two readings of a record command agree: moving through it field by field, as the model does while a host event is
to land inside it, ends in exactly the state its one transition gives (70_reset_and_hazards.md R458). -/
def Obligations.FieldByFieldReachesCompletion : Prop :=
  ∀ (s : State) (i : Instr), i ∈ [Instr.decodeFloor, .decodeResidue, .decodeMapping, .decodeMode, .decodeTdt] →
    s.params.wf → s.phase = .busy → s.parse = ParseVars.none → decodeOpcode s.cmd.toNat = .ok i →
    ∃ n, exec i s = .next (State.moves n s)

/-- The same for DECODE_CODEBOOK, whose ordered table is moved through run by run, and for DECODE_SETUP, which is moved
through its count fields, its records and its framing bit. -/
def Obligations.FieldByFieldReachesCodebookAndSetup : Prop :=
  ∀ (s : State) (i : Instr), i ∈ [Instr.decodeCodebook, .decodeSetup] → s.params.wf → s.phase = .busy →
    s.parse = ParseVars.none → decodeOpcode s.cmd.toNat = .ok i → ∃ n, exec i s = .next (State.moves n s)

/-! ## What every command leaves alone -/

/-- 30_encoding.md R101, 20_memory.md R91, 10_state.md R43: the frame of every instruction by class, on every path,
errors included. -/
def Obligations.CommandsKeepTheRest : Prop :=
  ∀ (i : Instr) (s t : State), exec i s = .next t →
    t.params = s.params ∧ t.cmd = s.cmd ∧ t.hostFault = s.hostFault ∧ t.inLen = s.inLen ∧
    t.audioChannels = s.audioChannels ∧ t.vecLen = s.vecLen ∧ t.lineLen = s.lineLen ∧ t.op0 = s.op0 ∧
    t.op1 = s.op1 ∧ t.op2 = s.op2 ∧ t.op3 = s.op3 ∧ t.op4 = s.op4 ∧ t.bus = s.bus ∧ t.readData = s.readData ∧
    t.resets = s.resets ∧ t.draws = s.draws ∧
    (i ≠ .renderLine → t.mem = s.mem) ∧ (i ≠ .huffClear → i ≠ .huffAddNode → t.huffWork = s.huffWork) ∧
    (∀ op, encode i = (.command, op) → op < 0x10 → t.record = s.record) ∧
    (∀ op, encode i = (.command, op) → 0x01 < op → op < 0x10 → t.bitPos = s.bitPos) ∧
    (∀ a, a < lineOffset 0 ∨ lineOffset s.lineLen.toNat ≤ a → t.byteAt a = s.byteAt a)

/-- 60_exceptions.md R404: an instruction that ends in an error changes the error registers, the completion bits and, in a
decode command, BIT_POS, and nothing else; its code is one of R401. -/
def Obligations.FailureLeavesEverythingElse : Prop :=
  ∀ (i : Instr) (s t : State), s.err = false → exec i s = .next t → t.err = true →
    ∃ (pos : Word) (code : Byte) (info aux : Word) (ctx : BitVec 16),
      t = ({ s with bitPos := pos }).afterError code info aux ctx ∧ 1 ≤ code.toNat ∧ code.toNat ≤ 16 ∧
      (∀ op, encode i = (.command, op) → op < 0x10 → pos = s.bitPos ∧ ctx = 0)

/-- 20_memory.md R91: no instruction depends on an IN_MEM byte at or beyond IN_LEN, on a VEC_MEM element at or beyond
VEC_LEN, or on any other byte of memory: two states that agree on those windows give the same result but for the
memory itself. -/
def Obligations.OnlyValidInputIsRead : Prop :=
  ∀ (i : Instr) (s t : State) (m : Memory),
    (∀ k < s.inLen.toNat, ({ s with mem := m }).byteAt (inBase + k) = s.byteAt (inBase + k)) →
    (∀ k < s.vecLen.toNat, ({ s with mem := m }).vecElem k = s.vecElem k) →
    exec i s = .next t → ∃ m', exec i { s with mem := m } = .next { t with mem := m' }

/-! ## The host interface -/

/-- 10_state.md R33, R45 and the rules of each register, while IDLE: a write stores into the register's implemented bits
and nothing else, a write to a read-only register changes nothing, and a read returns the register, its
unimplemented bits 0, with no other effect (20_memory.md R81). CMD, CTRL and STATUS have statements of their own. -/
def Obligations.IdleRegisterAccess : Prop :=
  ∀ (s : State) (w : Option Nat) (v : Word) (rest : List Pending) (offset : Nat) (t : State), s.phase = .idle →
    (s.bus = ⟨w, .write (s.params.base + offset) .word v⟩ :: rest →
      (offset, t) ∈
        [(0x18, { s with bus := rest, bitPos := v }), (0x1C, { s with bus := rest, inLen := v }),
         (0x20, { s with bus := rest, audioChannels := v.setWidth 8 }), (0x24, { s with bus := rest, vecLen := v }),
         (0x28, { s with bus := rest, lineLen := v }), (0x40, { s with bus := rest, op0 := v }),
         (0x44, { s with bus := rest, op1 := v }), (0x48, { s with bus := rest, op2 := v }),
         (0x4C, { s with bus := rest, op3 := v }), (0x50, { s with bus := rest, op4 := v }),
         (0x04, { s with bus := rest }), (0x08, { s with bus := rest }), (0x0C, { s with bus := rest }),
         (0x10, { s with bus := rest }), (0x14, { s with bus := rest }), (0x30, { s with bus := rest }),
         (0x60, { s with bus := rest }), (0x64, { s with bus := rest })] →
      step s = .next t) ∧
    (s.bus = ⟨w, .read (s.params.base + offset) .word⟩ :: rest →
      (offset, v) ∈
        [(0x00, s.cmd.zeroExtend 32), (0x08, s.errCode.zeroExtend 32), (0x0C, s.errInfo), (0x10, s.errAux),
         (0x14, s.errCtx.zeroExtend 32), (0x18, s.bitPos), (0x1C, s.inLen), (0x20, s.audioChannels.zeroExtend 32),
         (0x24, s.vecLen), (0x28, s.lineLen), (0x2C, 0), (0x30, BitVec.ofNat 32 s.huffWork.length), (0x40, s.op0),
         (0x44, s.op1), (0x48, s.op2), (0x4C, s.op3), (0x50, s.op4), (0x60, s.res0), (0x64, s.res1)] →
      step s = .next { s with bus := rest, readData := v })

/-- 10_state.md R35: a read of STATUS, in either phase, returns its fields, and the reserved bits read 0. -/
def Obligations.StatusReadsItsFields : Prop :=
  ∀ (s : State) (w : Option Nat) (rest : List Pending), (s.phase = .idle ∨ w = some 0) →
    s.bus = ⟨w, .read (s.params.base + 0x04) .word⟩ :: rest →
    ∃ v : Word, step s = .next { s with bus := rest, readData := v } ∧
      v.getLsbD 0 = decide (s.phase = .busy) ∧ v.getLsbD 1 = s.done ∧ v.getLsbD 2 = s.err ∧
      v.getLsbD 3 = s.record.isSome ∧ v.getLsbD 4 = s.hostFault ∧ v.extractLsb' 5 3 = 0 ∧
      (v.extractLsb' 8 4).toNat =
        (match s.record with
          | none => 0
          | some (.codebook _) => 1
          | some (.tdt _) => 2
          | some (.floor _) => 3
          | some (.residue _) => 4
          | some (.mapping _) => 5
          | some (.mode _) => 6
          | some (.setup _) => 7) ∧
      v.extractLsb' 12 20 = 0

/-- 20_memory.md R71, R73, R74: a word written to IN_MEM, VEC_MEM or LINE_BUF while IDLE stores its four bytes, the lowest
lane first, and no other byte changes; reading the word back returns it. -/
def Obligations.WindowWordWriteAndRead : Prop :=
  ∀ (s : State) (w w' : Option Nat) (v : Word) (rest : List Pending) (offset : Nat), s.phase = .idle →
    ((∃ k, offset = 0x10000000 + 4 * k ∧ 4 * k + 3 < s.params.inCap) ∨
      (∃ i < s.params.vecCap, offset = 0x1000 + 4 * i) ∨ (∃ i < s.params.lineCap, offset = 0x10000 + 4 * i)) →
    s.params.wf →
    s.bus = ⟨w, .write (s.params.base + offset) .word v⟩ :: ⟨w', .read (s.params.base + offset) .word⟩ :: rest →
    ∃ (m : Memory) (t : State),
      step s = .next t ∧ t = { s with bus := ⟨w', .read (s.params.base + offset) .word⟩ :: rest, mem := m } ∧
      step t = .next { t with bus := rest, readData := v } ∧
      (∀ j < 4, t.byteAt (offset + j) = v.extractLsb' (8 * j) 8) ∧
      (∀ a, a < offset ∨ offset + 4 ≤ a → t.byteAt a = s.byteAt a)

/-- 10_state.md R45, 20_memory.md R71, R83: offsets that name nothing, the read-only windows, and whole words at or beyond a
window's capacity: a write while IDLE is ignored without a fault, and such a hole reads 0. -/
def Obligations.HolesReadZeroAndIgnoreWrites : Prop :=
  ∀ (s : State) (w : Option Nat) (v : Word) (rest : List Pending) (offset : Nat), s.phase = .idle → s.params.wf →
    offset % 4 = 0 → offset < 2 ^ 32 →
    let hole :=
      offset ∈ [0x34, 0x38, 0x3C, 0x54, 0x58, 0x5C] ∨ (0x68 ≤ offset ∧ offset < 0x1000) ∨
      (0x1000 + 4 * s.params.vecCap ≤ offset ∧ offset < 0x10000) ∨
      (0x10000 + 4 * s.params.lineCap ≤ offset ∧ offset < 0x100000) ∨
      (0x100000 + 16 * s.params.huffCap ≤ offset ∧ offset < 0x1000000) ∨
      (0x2000000 ≤ offset ∧ offset < 0x10000000) ∨ 0x10000000 + s.params.inCap ≤ offset
    ((hole ∨ (0x100000 ≤ offset ∧ offset < 0x2000000)) →
      s.bus = ⟨w, .write (s.params.base + offset) .word v⟩ :: rest → step s = .next { s with bus := rest }) ∧
    (hole → s.bus = ⟨w, .read (s.params.base + offset) .word⟩ :: rest →
      step s = .next { s with bus := rest, readData := 0 })

/-- 20_memory.md R75, R76: the four words of a node of HUFF_WORK as the host reads them, zero words beyond HUFF_COUNT, and
an empty record store reads 0. -/
def Obligations.HuffWindowReads : Prop :=
  ∀ (s : State) (w : Option Nat) (rest : List Pending) (i k : Nat) (v : Word), s.phase = .idle → s.params.wf →
    (i < s.params.huffCap → k < 4 →
      s.bus = ⟨w, .read (s.params.base + (0x100000 + 16 * i + 4 * k)) .word⟩ :: rest →
      (s.huffWork.length ≤ i → v = 0) →
      (∀ x, s.huffWork[i]? = some (.leaf x) → [(1 : Word), 0xFFFFFFFF, 0xFFFFFFFF, x][k]? = some v) →
      (∀ l r, s.huffWork[i]? = some (.internal l r) →
        [BitVec.ofNat 32 ((if l.isSome then 2 else 0) + (if r.isSome then 4 else 0)),
          (match l with | none => 0xFFFFFFFF | some c => BitVec.ofNat 32 c),
          (match r with | none => 0xFFFFFFFF | some c => BitVec.ofNat 32 c), 0][k]? = some v) →
      step s = .next { s with bus := rest, readData := v }) ∧
    (s.record = none → k < 0x400000 → s.bus = ⟨w, .read (s.params.base + (0x1000000 + 4 * k)) .word⟩ :: rest →
      step s = .next { s with bus := rest, readData := 0 })

/-- 10_state.md R46: while BUSY, a host write other than to CTRL changes nothing but HOST_FAULT, and a well-formed host read
other than of STATUS returns an unspecified value and has no effect: the running command is not disturbed. `draws` is
the model's count of unspecified values. Malformed reads have a statement of their own (notes/assumptions/4.md). -/
def Obligations.BusyAccessesAreRefused : Prop :=
  ∀ (s : State) (offset : Nat) (width : Width) (v : Word) (rest : List Pending), s.phase = .busy → offset < 2 ^ 32 →
    (offset ≠ 0x2C → s.bus = ⟨some 0, .write (s.params.base + offset) width v⟩ :: rest →
      step s = .next { s with bus := rest, hostFault := true }) ∧
    (offset ≠ 0x04 → offset % 4 = 0 → s.bus = ⟨some 0, .read (s.params.base + offset) .word⟩ :: rest →
      ∃ (x : Word) (n : Nat), step s = .next { s with bus := rest, readData := x, draws := n })

/-- 20_memory.md R72, 60_exceptions.md R413, 10_state.md R35: an access that is misaligned or not 32 bits wide, in either
phase, sets HOST_FAULT; a write is discarded, a read returns an unspecified value. That a malformed read has this one
effect is read from R35 and R413 against 93_implementation_defined.md item 19 (notes/assumptions/4.md). -/
def Obligations.MalformedAccesses : Prop :=
  ∀ (s : State) (e : Option Nat) (offset : Nat) (width : Width) (v : Word) (rest : List Pending),
    (s.phase = .idle ∨ e = some 0) → offset < 2 ^ 32 → (width ≠ .word ∨ offset % 4 ≠ 0) →
    (s.bus = ⟨e, .write (s.params.base + offset) width v⟩ :: rest →
      step s = .next { s with bus := rest, hostFault := true }) ∧
    (s.bus = ⟨e, .read (s.params.base + offset) width⟩ :: rest →
      ∃ (x : Word) (n : Nat),
        step s = .next { s with bus := rest, hostFault := true, readData := x, draws := n })

/-- 10_state.md R42 and 70_reset_and_hazards.md R451, R452: a host write to CTRL, in either phase. With bit 0 clear it does
nothing. With bit 0 set it is the soft reset: every register and the hidden parse state take their reset values,
HUFF_WORK and the record store are empty, HOST_FAULT and the memories stay; when it aborts a RENDER_LINE whose operands
are legal, each element of the line holds its old or its new value. The model's: that one with illegal operands leaves
the memory (41_numeric.md R186; notes/assumptions/7.md), that the pending events and the last read value stay (2.md),
and that all else the command did is discarded (19.md). -/
def Obligations.SoftResetState : Prop :=
  ∀ (s : State) (e : Option Nat) (v : Word) (rest : List Pending), (s.phase = .idle ∨ e = some 0) →
    s.bus = ⟨e, .write (s.params.base + 0x2C) .word v⟩ :: rest →
    (v.getLsbD 0 = false → step s = .next { s with bus := rest }) ∧
    (v.getLsbD 0 = true →
      ∃ (m : Memory) (n : Nat),
        step s = .next
          { State.resetWith s.params with
            hostFault := s.hostFault, mem := m, bus := rest, readData := s.readData, resets := s.resets, draws := n } ∧
        (¬ (s.phase = .busy ∧ s.cmd = 0x08 ∧ s.lineLen.toNat ≤ s.params.lineCap ∧ 0 ≤ s.op0.toInt ∧
            s.op0.toInt < s.op2.toInt ∧ s.op2.toInt ≤ s.lineLen.toNat) → m = s.mem) ∧
        (s.phase = .busy → s.cmd = 0x08 → s.lineLen.toNat ≤ s.params.lineCap → 0 ≤ s.op0.toInt →
          s.op0.toInt < s.op2.toInt → s.op2.toInt ≤ s.lineLen.toNat →
          (∀ x, s.op0.toNat ≤ x → x < s.op2.toNat →
            ({ s with mem := m }).lineElem x = s.lineElem x ∨
            ∃ y, renderPoint s.op0.toInt s.op1.toInt s.op2.toInt s.op3.toInt x = some y ∧
              ({ s with mem := m }).lineElem x = BitVec.ofInt 32 y) ∧
          (∀ a, a < lineOffset s.op0.toNat ∨ lineOffset s.op2.toNat ≤ a →
            ({ s with mem := m }).byteAt a = s.byteAt a)))

/-- 70_reset_and_hazards.md R450, R451: hardware reset, in either phase, gives the reset column, HOST_FAULT included, and
the memories hold new unspecified values. `resets` counts the resets, `draws` the other unspecified values, and the
host's own events stay pending: those are the model's (notes/assumptions/2.md, 3.md). -/
def Obligations.HardResetGivesResetColumn : Prop :=
  ∀ (s : State) (e : Option Nat) (rest : List Pending), (s.phase = .idle ∨ e = some 0) →
    s.bus = ⟨e, .hardReset⟩ :: rest →
    ∃ t, step s = .next t ∧
      t = { State.resetWith s.params with
        bus := rest, readData := s.readData, resets := s.resets + 1, draws := s.draws } ∧
      t.phase = .idle ∧ t.cmd = 0 ∧ t.done = false ∧ t.err = false ∧ t.record = none ∧ t.hostFault = false ∧
      t.statusWord = 0 ∧ t.errCode = 0 ∧ t.errInfo = 0 ∧ t.errAux = 0 ∧ t.errCtx = 0 ∧ t.bitPos = 0 ∧ t.inLen = 0 ∧
      t.vecLen = 0 ∧ t.lineLen = 0 ∧ t.audioChannels = 0 ∧ t.op0 = 0 ∧ t.op1 = 0 ∧ t.op2 = 0 ∧ t.op3 = 0 ∧
      t.op4 = 0 ∧ t.res0 = 0 ∧ t.res1 = 0 ∧ t.huffWork = [.internal none none] ∧ t.huffCount = 1 ∧
      t.parse = ParseVars.none ∧ ∀ a, t.byteAt a = Config.memDraw (s.resets + 1) a

/-- 60_exceptions.md R413: HOST_FAULT is sticky: no step clears it but a hardware reset. -/
def Obligations.HostFaultIsSticky : Prop :=
  ∀ s t : State, s.hostFault = true → step s = .next t →
    (∀ e ∈ s.bus.head?, e.event = .hardReset → s.phase = .busy ∧ e.wait ≠ some 0) → t.hostFault = true

/-! ## Invariants -/

/-- Every step keeps the parameters legal, the memory in canonical form, HUFF_WORK a tree of R51 within HUFF_CAP, and the
parse variables gone while the engine is IDLE, from every state that meets them. -/
def Obligations.StepKeepsInvariant : Prop := ∀ s t : State, s.Inv → step s = .next t → t.Inv

/-- The invariant holds after reset. -/
def Obligations.ResetMeetsInvariant : Prop := State.reset.Inv ∧ State.reset.errorsAgree

/-- 60_exceptions.md R410 as an invariant: while a command runs and after a success the error registers are 0, and after
an error the code is one of R401; every step keeps it. -/
def Obligations.StepKeepsErrorRegisters : Prop :=
  ∀ s t : State, s.errorsAgree → step s = .next t → t.errorsAgree
end

