-- ==== Sys2Proof/Laws/Memory.lean ====
section
/-!
SUPPORT. The laws of byte memory: a read after a write, and that every memory operation keeps the canonical form.
-/

namespace Sys2Proof.Machine

/-! ## One byte -/

@[simp] theorem Memory.get?_nil (a : Nat) : Memory.get? [] a = none := rfl

theorem Memory.get?_set (m : Memory) (a b : Nat) (v : Byte) :
    (Memory.set m a v).get? b = if b = a then some v else m.get? b := by
  induction m with
  | nil => grind [Memory.set, Memory.get?]
  | cons c rest ih => grind [Memory.set, Memory.get?]

@[simp] theorem Memory.byte_set_same (m : Memory) (e a : Nat) (v : Byte) : (Memory.set m a v).byte e a = v := by
  simp [Memory.byte, Memory.get?_set]

theorem Memory.byte_set_ne (m : Memory) (e : Nat) {a b : Nat} (v : Byte) (h : b ≠ a) :
    (Memory.set m a v).byte e b = m.byte e b := by
  simp [Memory.byte, Memory.get?_set, h]

theorem Memory.mem_set {m : Memory} {a : Nat} {v : Byte} {c : Host.Cell} (h : c ∈ Memory.set m a v) :
    c = (a, v) ∨ c ∈ m := by
  induction m with
  | nil => simpa [Memory.set] using h
  | cons d rest ih =>
    obtain ⟨k, w⟩ := d
    simp only [Memory.set] at h
    split at h
    · simpa using h
    · split at h
      · rcases List.mem_cons.mp h with h | h
        · exact .inl h
        · exact .inr (List.mem_cons_of_mem _ h)
      · rcases List.mem_cons.mp h with h | h
        · exact .inr (h ▸ List.mem_cons_self)
        · exact (ih h).imp_right (List.mem_cons_of_mem _)

/-- A byte write keeps the canonical form. -/
theorem Memory.wf_set {m : Memory} (h : Memory.wf m) (a : Nat) (v : Byte) : Memory.wf (Memory.set m a v) := by
  induction m with
  | nil => simp [Memory.set, Memory.wf]
  | cons d rest ih =>
    obtain ⟨k, w⟩ := d
    obtain ⟨hk, hrest⟩ := List.pairwise_cons.mp h
    simp only [Memory.set]
    split
    · rename_i hlt
      refine List.pairwise_cons.mpr ⟨fun c hc => ?_, h⟩
      rcases List.mem_cons.mp hc with rfl | hc
      · exact hlt
      · exact Nat.lt_trans hlt (hk c hc)
    · split
      · rename_i heq
        exact List.pairwise_cons.mpr ⟨fun c hc => by simpa [heq] using hk c hc, hrest⟩
      · refine List.pairwise_cons.mpr ⟨fun c hc => ?_, ih hrest⟩
        rcases Memory.mem_set hc with rfl | hc
        · simp only; omega
        · exact hk c hc

/-! ## One word -/

/-- What a word write does to a byte: its four lanes, and no other byte. -/
theorem Memory.byte_setWord (m : Memory) (e a b : Nat) (w : Word) :
    (Memory.setWord m a w).byte e b =
      if a ≤ b ∧ b < a + 4 then lane w (b - a) else m.byte e b := by
  simp only [Memory.setWord, Memory.byte, Memory.get?_set]
  by_cases h0 : b = a
  · subst h0
    rw [if_neg (by omega), if_neg (by omega), if_neg (by omega), if_pos rfl, if_pos (by omega)]
    simp
  by_cases h1 : b = a + 1
  · subst h1; rw [if_neg (by omega), if_neg (by omega), if_pos rfl, if_pos (by omega)]; simp
  by_cases h2 : b = a + 2
  · subst h2; rw [if_neg (by omega), if_pos rfl, if_pos (by omega)]; simp
  by_cases h3 : b = a + 3
  · subst h3; rw [if_pos rfl, if_pos (by omega)]; simp
  · rw [if_neg h3, if_neg h2, if_neg h1, if_neg h0, if_neg (by omega)]

theorem lanes_append (w : Word) : lane w 3 ++ lane w 2 ++ lane w 1 ++ lane w 0 = w := by
  apply BitVec.eq_of_getLsbD_eq
  intro i hi
  simp only [lane, BitVec.getLsbD_append, BitVec.getLsbD_extractLsb']
  by_cases h0 : i < 8
  · simp [h0]
  by_cases h1 : i < 16
  · simp [h0, show i - 8 < 8 by omega, show 8 + (i - 8) = i by omega]
  by_cases h2 : i < 24
  · simp [h0, show ¬ i - 8 < 8 by omega, show i - 8 - 8 < 8 by omega, show 16 + (i - 8 - 8) = i by omega]
  · simp [h0, show ¬ i - 8 < 8 by omega, show ¬ i - 8 - 8 < 8 by omega, show i - 8 - 8 - 8 < 8 by omega,
      show 24 + (i - 8 - 8 - 8) = i by omega]

/-- A word reads back as it was written. -/
@[simp] theorem Memory.word_setWord (m : Memory) (e a : Nat) (w : Word) : (Memory.setWord m a w).word e a = w := by
  simp only [Memory.word, Memory.byte_setWord]
  rw [if_pos (by omega), if_pos (by omega), if_pos (by omega), if_pos (by omega)]
  simpa [Nat.add_sub_cancel_left] using lanes_append w

/-- A word that does not overlap a written one keeps its value. -/
theorem Memory.word_setWord_ne (m : Memory) (e : Nat) {a b : Nat} (w : Word) (h : b + 4 ≤ a ∨ a + 4 ≤ b) :
    (Memory.setWord m a w).word e b = m.word e b := by
  simp only [Memory.word, Memory.byte_setWord]
  rw [if_neg (by omega), if_neg (by omega), if_neg (by omega), if_neg (by omega)]

theorem Memory.wf_setWord {m : Memory} (h : Memory.wf m) (a : Nat) (w : Word) : Memory.wf (Memory.setWord m a w) :=
  Memory.wf_set (Memory.wf_set (Memory.wf_set (Memory.wf_set h _ _) _ _) _ _) _ _

/-! ## The operations built from them -/

theorem wf_writeLine {m : Memory} (h : Memory.wf m) (writes : List (Nat × Int)) : Memory.wf (writeLine m writes) := by
  induction writes generalizing m with
  | nil => exact h
  | cons w rest ih => exact ih (Memory.wf_setWord h _ _)

theorem byte_writeLine_ne (m : Memory) (e a : Nat) (writes : List (Nat × Int))
    (h : ∀ w ∈ writes, a < lineOffset w.1 ∨ lineOffset w.1 + 4 ≤ a) :
    (writeLine m writes).byte e a = m.byte e a := by
  induction writes generalizing m with
  | nil => rfl
  | cons w rest ih =>
    have hw := h w List.mem_cons_self
    show (writeLine (m.setWord (lineOffset w.1) (Word.ofI32 w.2)) rest).byte e a = m.byte e a
    rw [ih _ (fun x hx => h x (List.mem_cons_of_mem _ hx)), Memory.byte_setWord, if_neg (by omega)]

theorem wf_storeInByte {m : Memory} (h : Memory.wf m) (p : Params) (i : Nat) (w : Word) (j : Nat) :
    Memory.wf (storeInByte p i w m j) := by
  unfold storeInByte
  split
  · exact Memory.wf_set h _ _
  · exact h

theorem byte_storeInByte (m : Memory) (e : Nat) (p : Params) (i j a : Nat) (w : Word) :
    (storeInByte p i w m j).byte e a =
      if a = inBase + i + j ∧ i + j < p.inCap then lane w j else m.byte e a := by
  unfold storeInByte
  by_cases h : i + j < p.inCap
  · rw [if_pos h]
    by_cases ha : a = inBase + i + j
    · subst ha; simp [h]
    · simp [Memory.byte_set_ne m e _ ha, ha]
  · simp [h]

theorem wf_storePayload {m : Memory} (h : Memory.wf m) (value n i : Nat) :
    Memory.wf (storePayload m value n i) := by
  induction n generalizing m value i with
  | zero => exact h
  | succ n ih => exact ih (Memory.wf_set h _ _) _ _

/-- The bytes that `storePayload` stores, least significant first, and no other byte. -/
theorem byte_storePayload (m : Memory) (e value n i a : Nat) :
    (storePayload m value n i).byte e a =
      if inBase + i ≤ a ∧ a < inBase + i + n then BitVec.ofNat 8 (value / 256 ^ (a - (inBase + i)))
      else m.byte e a := by
  induction n generalizing m value i with
  | zero => rw [if_neg (by omega)]; rfl
  | succ n ih =>
    rw [storePayload, ih]
    by_cases h0 : a = inBase + i
    · subst h0
      rw [if_neg (by omega), if_pos (by omega)]
      simp
    · rw [Memory.byte_set_ne m e _ h0]
      by_cases h : inBase + (i + 1) ≤ a ∧ a < inBase + (i + 1) + n
      · rw [if_pos h, if_pos (by omega), show a - (inBase + i) = (a - (inBase + (i + 1))) + 1 by omega,
          Nat.pow_succ', Nat.div_div_eq_div_mul]
      · rw [if_neg h, if_neg (by omega)]

theorem wf_abortedLine {s : State} (h : Memory.wf s.mem) : Memory.wf s.abortedLine := by
  unfold State.abortedLine
  split
  · generalize s.lineWrites = writes
    generalize hm : s.mem = m at h
    clear hm
    induction writes generalizing m with
    | nil => exact h
    | cons w rest ih => exact ih _ (Memory.wf_setWord h _ _)
  · exact h

end Sys2Proof.Machine
end

