-- ==== Sys2Proof/Laws/Reader.lean ====
section
/-!
SUPPORT. The laws of the bit reader and of the decoders' sequencing.
-/

namespace Sys2Proof.Machine

/-! ## Sequencing -/

@[simp] theorem Parser.pure_apply {α : Type} (a : α) (c : Cursor) : (pure a : Parser α) c = .ok a c := rfl

@[simp] theorem raise_apply {α : Type} (kind : ErrKind) (info aux : Nat) (c : Cursor) :
    (raise kind info aux : Parser α) c = .error ⟨kind, info, aux⟩ c := rfl

theorem Parser.bind_of_ok {α β : Type} {f : Parser α} {g : α → Parser β} {c d : Cursor} {a : α}
    (h : f c = .ok a d) : (f >>= g) c = g a d := by
  show EStateM.bind f g c = g a d
  simp [EStateM.bind, h]

theorem Parser.bind_of_error {α β : Type} {f : Parser α} {g : α → Parser β} {c d : Cursor} {e : Raise}
    (h : f c = .error e d) : (f >>= g) c = .error e d := by
  show EStateM.bind f g c = .error e d
  simp [EStateM.bind, h]

/-- A sequence succeeds exactly when both parts do. -/
theorem Parser.bind_eq_ok {α β : Type} {f : Parser α} {g : α → Parser β} {c d : Cursor} {b : β} :
    (f >>= g) c = .ok b d ↔ ∃ a c', f c = .ok a c' ∧ g a c' = .ok b d := by
  cases h : f c with
  | ok a c' => simp [Parser.bind_of_ok h, and_assoc]
  | error e c' => simp [Parser.bind_of_error h]

/-- A sequence raises when its first part raises, or its second part after the first. -/
theorem Parser.bind_eq_error {α β : Type} {f : Parser α} {g : α → Parser β} {c d : Cursor} {e : Raise} :
    (f >>= g) c = .error e d ↔
      f c = .error e d ∨ ∃ a c', f c = .ok a c' ∧ g a c' = .error e d := by
  cases h : f c with
  | ok a c' => simp [Parser.bind_of_ok h, and_assoc]
  | error e' c' => simp [Parser.bind_of_error h]

theorem Parser.map_apply {α β : Type} (f : α → β) (g : Parser α) (c : Cursor) :
    (f <$> g) c =
      match g c with
      | .ok a d => .ok (f a) d
      | .error e d => .error e d := by
  show EStateM.map f g c = _
  simp only [EStateM.map]
  cases g c <;> rfl

@[simp] theorem setCtx_apply (stage : Stage) (inCount : Bool) (index : Nat) (c : Cursor) :
    setCtx stage inCount index c = .ok () ⟨c.pos, ⟨stage, inCount, index⟩⟩ := rfl

theorem times_succ {α : Type} (f : Nat → Parser α) (n i : Nat) :
    times f (n + 1) i = (do
      let a ← f i
      let rest ← times f n (i + 1)
      return a :: rest) := rfl

theorem times_length {α : Type} {f : Nat → Parser α} {n i : Nat} {c d : Cursor} {as : List α}
    (h : times f n i c = .ok as d) : as.length = n := by
  induction n generalizing i c as with
  | zero => cases h; rfl
  | succ n ih =>
    rw [times_succ, Parser.bind_eq_ok] at h
    obtain ⟨a, c', -, h⟩ := h
    rw [Parser.bind_eq_ok] at h
    obtain ⟨rest, c'', h, h'⟩ := h
    cases h'
    simp [ih h]

/-! ## Fields -/

theorem Payload.field_lt (p : Payload) (q n : Nat) : p.field q n < 2 ^ n := by
  induction n generalizing q with
  | zero => simp [Payload.field]
  | succ n ih =>
    have := ih (q + 1)
    have hb : (p.bit q).toNat ≤ 1 := Bool.toNat_le _
    simp only [Payload.field, Nat.pow_succ]
    omega

/-- R78: bit `k` of a field is bit `q + k` of the stream. -/
theorem Payload.testBit_field (p : Payload) (q n k : Nat) :
    (p.field q n).testBit k = (decide (k < n) && p.bit (q + k)) := by
  induction n generalizing q k with
  | zero => simp [Payload.field]
  | succ n ih =>
    simp only [Payload.field]
    cases k with
    | zero => cases h : p.bit q <;> simp [Nat.testBit_zero]
    | succ k =>
      have hd : ((p.bit q).toNat + 2 * p.field (q + 1) n) / 2 = p.field (q + 1) n := by
        have hb : (p.bit q).toNat ≤ 1 := Bool.toNat_le _
        omega
      rw [Nat.testBit_succ, hd, ih, show q + 1 + k = q + (k + 1) by omega]
      simp

/-- A field depends on its own bits only. -/
theorem Payload.field_congr {p r : Payload} {q n : Nat} (h : ∀ k < n, p.bit (q + k) = r.bit (q + k)) :
    p.field q n = r.field q n := by
  induction n generalizing q with
  | zero => rfl
  | succ n ih =>
    have h0 := h 0 (by omega)
    simp only [Payload.field]
    rw [show p.bit q = r.bit q from h0, ih fun k hk => by
      have := h (k + 1) (by omega)
      rwa [show q + (k + 1) = q + 1 + k by omega] at this]

/-! ## Reads -/

@[simp] theorem read_zero (p : Payload) (c : Cursor) : read p 0 c = .ok 0 c := rfl

theorem read_of_short {p : Payload} {n : Nat} {c : Cursor} (hn : n ≠ 0) (h : 8 * p.len < c.pos + n) :
    read p n c = .error ⟨.prematureEndOfData, c.pos, n⟩ c := by
  simp [read, hn, h]

theorem read_of_fits {p : Payload} {n : Nat} {c : Cursor} (h : c.pos + n ≤ 8 * p.len) :
    read p n c = .ok (p.field c.pos n) ⟨c.pos + n, c.ctx⟩ := by
  by_cases hn : n = 0
  · subst hn; rfl
  · simp [read, hn, Nat.not_lt.mpr h]

/-- A field that a payload holds is the value the reader answers, with the cursor after it. -/
theorem read_of_holds {p : Payload} {n v q : Nat} {rest : Fields} {ctx : ErrCtx}
    (h : p.holds q ((n, v) :: rest) = true) : read p n ⟨q, ctx⟩ = .ok v ⟨q + n, ctx⟩ := by
  simp only [Payload.holds, Bool.and_eq_true, Bool.or_eq_true, beq_iff_eq, decide_eq_true_eq] at h
  obtain ⟨⟨hfit, hv⟩, -⟩ := h
  rcases hfit with rfl | hfit
  · simpa [Payload.field] using hv
  · simpa [hv] using read_of_fits (c := ⟨q, ctx⟩) hfit

theorem Payload.holds_tail {p : Payload} {n v q : Nat} {rest : Fields} (h : p.holds q ((n, v) :: rest) = true) :
    p.holds (q + n) rest = true := by
  simp only [Payload.holds, Bool.and_eq_true] at h
  exact h.2

@[simp] theorem Payload.holds_nil (p : Payload) (q : Nat) : p.holds q [] = true := rfl

@[simp] theorem Fields.bits_nil : Fields.bits [] = 0 := rfl

@[simp] theorem Fields.bits_cons (n v : Nat) (rest : Fields) :
    Fields.bits ((n, v) :: rest) = n + Fields.bits rest := rfl

@[simp] theorem Fields.bits_append (a b : Fields) : Fields.bits (a ++ b) = Fields.bits a + Fields.bits b := by
  simp [Fields.bits, List.sum_append]

theorem Payload.holds_append (p : Payload) (q : Nat) (a b : Fields) :
    p.holds q (a ++ b) = (p.holds q a && p.holds (q + a.bits) b) := by
  induction a generalizing q with
  | nil => simp
  | cons f rest ih =>
    obtain ⟨n, v⟩ := f
    simp only [List.cons_append, Payload.holds, ih, Fields.bits_cons, Bool.and_assoc]
    rw [show q + n + Fields.bits rest = q + (n + Fields.bits rest) by omega]

/-- What a read of the given width can do. -/
theorem read_cases (p : Payload) (n : Nat) (c : Cursor) :
    (read p n c = .ok (p.field c.pos n) ⟨c.pos + n, c.ctx⟩ ∧ (n = 0 ∨ c.pos + n ≤ 8 * p.len)) ∨
      (read p n c = .error ⟨.prematureEndOfData, c.pos, n⟩ c ∧ n ≠ 0 ∧ 8 * p.len < c.pos + n) := by
  by_cases hn : n = 0
  · exact .inl ⟨by subst hn; rfl, .inl hn⟩
  · by_cases h : c.pos + n ≤ 8 * p.len
    · exact .inl ⟨read_of_fits h, .inr h⟩
    · exact .inr ⟨read_of_short hn (by omega), hn, by omega⟩

theorem flag_of_holds {p : Payload} {b : Bool} {q : Nat} {rest : Fields} {ctx : ErrCtx}
    (h : p.holds q ((1, b.toNat) :: rest) = true) : flag p ⟨q, ctx⟩ = .ok b ⟨q + 1, ctx⟩ := by
  rw [flag, Parser.bind_of_ok (read_of_holds h)]
  cases b <;> rfl

end Sys2Proof.Machine
end

