-- ==== Sys2Proof/Laws/State.lean ====
section
/-!
SUPPORT. One lemma per field for each named update of the state, so that no later proof unfolds a record update.
-/

namespace Sys2Proof.Machine

/-! ### startCommand -/
@[simp] theorem State.startCommand_params (s : State) (c : Byte) : (s.startCommand c).params = s.params := rfl
@[simp] theorem State.startCommand_phase (s : State) (c : Byte) : (s.startCommand c).phase = .busy := rfl
@[simp] theorem State.startCommand_cmd (s : State) (c : Byte) : (s.startCommand c).cmd = c := rfl
@[simp] theorem State.startCommand_done (s : State) (c : Byte) : (s.startCommand c).done = false := rfl
@[simp] theorem State.startCommand_err (s : State) (c : Byte) : (s.startCommand c).err = false := rfl
@[simp] theorem State.startCommand_hostFault (s : State) (c : Byte) : (s.startCommand c).hostFault = s.hostFault := rfl
@[simp] theorem State.startCommand_errCode (s : State) (c : Byte) : (s.startCommand c).errCode = 0 := rfl
@[simp] theorem State.startCommand_errInfo (s : State) (c : Byte) : (s.startCommand c).errInfo = 0 := rfl
@[simp] theorem State.startCommand_errAux (s : State) (c : Byte) : (s.startCommand c).errAux = 0 := rfl
@[simp] theorem State.startCommand_errCtx (s : State) (c : Byte) : (s.startCommand c).errCtx = 0 := rfl
@[simp] theorem State.startCommand_bitPos (s : State) (c : Byte) : (s.startCommand c).bitPos = s.bitPos := rfl
@[simp] theorem State.startCommand_inLen (s : State) (c : Byte) : (s.startCommand c).inLen = s.inLen := rfl
@[simp] theorem State.startCommand_audioChannels (s : State) (c : Byte) : (s.startCommand c).audioChannels = s.audioChannels := rfl
@[simp] theorem State.startCommand_vecLen (s : State) (c : Byte) : (s.startCommand c).vecLen = s.vecLen := rfl
@[simp] theorem State.startCommand_lineLen (s : State) (c : Byte) : (s.startCommand c).lineLen = s.lineLen := rfl
@[simp] theorem State.startCommand_op0 (s : State) (c : Byte) : (s.startCommand c).op0 = s.op0 := rfl
@[simp] theorem State.startCommand_op1 (s : State) (c : Byte) : (s.startCommand c).op1 = s.op1 := rfl
@[simp] theorem State.startCommand_op2 (s : State) (c : Byte) : (s.startCommand c).op2 = s.op2 := rfl
@[simp] theorem State.startCommand_op3 (s : State) (c : Byte) : (s.startCommand c).op3 = s.op3 := rfl
@[simp] theorem State.startCommand_op4 (s : State) (c : Byte) : (s.startCommand c).op4 = s.op4 := rfl
@[simp] theorem State.startCommand_res0 (s : State) (c : Byte) : (s.startCommand c).res0 = s.res0 := rfl
@[simp] theorem State.startCommand_res1 (s : State) (c : Byte) : (s.startCommand c).res1 = s.res1 := rfl
@[simp] theorem State.startCommand_mem (s : State) (c : Byte) : (s.startCommand c).mem = s.mem := rfl
@[simp] theorem State.startCommand_huffWork (s : State) (c : Byte) : (s.startCommand c).huffWork = s.huffWork := rfl
@[simp] theorem State.startCommand_record (s : State) (c : Byte) : (s.startCommand c).record = (if isDecodeOpcode c then none else s.record) := rfl
@[simp] theorem State.startCommand_parse (s : State) (c : Byte) : (s.startCommand c).parse = ParseVars.none := rfl
@[simp] theorem State.startCommand_bus (s : State) (c : Byte) : (s.startCommand c).bus = s.bus := rfl
@[simp] theorem State.startCommand_readData (s : State) (c : Byte) : (s.startCommand c).readData = s.readData := rfl
@[simp] theorem State.startCommand_resets (s : State) (c : Byte) : (s.startCommand c).resets = s.resets := rfl
@[simp] theorem State.startCommand_draws (s : State) (c : Byte) : (s.startCommand c).draws = s.draws := rfl

/-! ### complete -/
@[simp] theorem State.complete_params (s : State) (a b : Word) : (s.complete a b).params = s.params := rfl
@[simp] theorem State.complete_phase (s : State) (a b : Word) : (s.complete a b).phase = .idle := rfl
@[simp] theorem State.complete_cmd (s : State) (a b : Word) : (s.complete a b).cmd = s.cmd := rfl
@[simp] theorem State.complete_done (s : State) (a b : Word) : (s.complete a b).done = true := rfl
@[simp] theorem State.complete_err (s : State) (a b : Word) : (s.complete a b).err = s.err := rfl
@[simp] theorem State.complete_hostFault (s : State) (a b : Word) : (s.complete a b).hostFault = s.hostFault := rfl
@[simp] theorem State.complete_errCode (s : State) (a b : Word) : (s.complete a b).errCode = s.errCode := rfl
@[simp] theorem State.complete_errInfo (s : State) (a b : Word) : (s.complete a b).errInfo = s.errInfo := rfl
@[simp] theorem State.complete_errAux (s : State) (a b : Word) : (s.complete a b).errAux = s.errAux := rfl
@[simp] theorem State.complete_errCtx (s : State) (a b : Word) : (s.complete a b).errCtx = s.errCtx := rfl
@[simp] theorem State.complete_bitPos (s : State) (a b : Word) : (s.complete a b).bitPos = s.bitPos := rfl
@[simp] theorem State.complete_inLen (s : State) (a b : Word) : (s.complete a b).inLen = s.inLen := rfl
@[simp] theorem State.complete_audioChannels (s : State) (a b : Word) : (s.complete a b).audioChannels = s.audioChannels := rfl
@[simp] theorem State.complete_vecLen (s : State) (a b : Word) : (s.complete a b).vecLen = s.vecLen := rfl
@[simp] theorem State.complete_lineLen (s : State) (a b : Word) : (s.complete a b).lineLen = s.lineLen := rfl
@[simp] theorem State.complete_op0 (s : State) (a b : Word) : (s.complete a b).op0 = s.op0 := rfl
@[simp] theorem State.complete_op1 (s : State) (a b : Word) : (s.complete a b).op1 = s.op1 := rfl
@[simp] theorem State.complete_op2 (s : State) (a b : Word) : (s.complete a b).op2 = s.op2 := rfl
@[simp] theorem State.complete_op3 (s : State) (a b : Word) : (s.complete a b).op3 = s.op3 := rfl
@[simp] theorem State.complete_op4 (s : State) (a b : Word) : (s.complete a b).op4 = s.op4 := rfl
@[simp] theorem State.complete_res0 (s : State) (a b : Word) : (s.complete a b).res0 = a := rfl
@[simp] theorem State.complete_res1 (s : State) (a b : Word) : (s.complete a b).res1 = b := rfl
@[simp] theorem State.complete_mem (s : State) (a b : Word) : (s.complete a b).mem = s.mem := rfl
@[simp] theorem State.complete_huffWork (s : State) (a b : Word) : (s.complete a b).huffWork = s.huffWork := rfl
@[simp] theorem State.complete_record (s : State) (a b : Word) : (s.complete a b).record = s.record := rfl
@[simp] theorem State.complete_parse (s : State) (a b : Word) : (s.complete a b).parse = ParseVars.none := rfl
@[simp] theorem State.complete_bus (s : State) (a b : Word) : (s.complete a b).bus = s.bus := rfl
@[simp] theorem State.complete_readData (s : State) (a b : Word) : (s.complete a b).readData = s.readData := rfl
@[simp] theorem State.complete_resets (s : State) (a b : Word) : (s.complete a b).resets = s.resets := rfl
@[simp] theorem State.complete_draws (s : State) (a b : Word) : (s.complete a b).draws = s.draws := rfl

/-! ### raiseError -/
@[simp] theorem State.raiseError_params (s : State) (e : Raise) (ctx : ErrCtx) : (s.raiseError e ctx).params = s.params := rfl
@[simp] theorem State.raiseError_phase (s : State) (e : Raise) (ctx : ErrCtx) : (s.raiseError e ctx).phase = .idle := rfl
@[simp] theorem State.raiseError_cmd (s : State) (e : Raise) (ctx : ErrCtx) : (s.raiseError e ctx).cmd = s.cmd := rfl
@[simp] theorem State.raiseError_done (s : State) (e : Raise) (ctx : ErrCtx) : (s.raiseError e ctx).done = true := rfl
@[simp] theorem State.raiseError_err (s : State) (e : Raise) (ctx : ErrCtx) : (s.raiseError e ctx).err = true := rfl
@[simp] theorem State.raiseError_hostFault (s : State) (e : Raise) (ctx : ErrCtx) : (s.raiseError e ctx).hostFault = s.hostFault := rfl
@[simp] theorem State.raiseError_errCode (s : State) (e : Raise) (ctx : ErrCtx) : (s.raiseError e ctx).errCode = e.kind.code := rfl
@[simp] theorem State.raiseError_errInfo (s : State) (e : Raise) (ctx : ErrCtx) : (s.raiseError e ctx).errInfo = Word.low e.info := rfl
@[simp] theorem State.raiseError_errAux (s : State) (e : Raise) (ctx : ErrCtx) : (s.raiseError e ctx).errAux = Word.low e.aux := rfl
@[simp] theorem State.raiseError_errCtx (s : State) (e : Raise) (ctx : ErrCtx) : (s.raiseError e ctx).errCtx = ctx.word := rfl
@[simp] theorem State.raiseError_bitPos (s : State) (e : Raise) (ctx : ErrCtx) : (s.raiseError e ctx).bitPos = s.bitPos := rfl
@[simp] theorem State.raiseError_inLen (s : State) (e : Raise) (ctx : ErrCtx) : (s.raiseError e ctx).inLen = s.inLen := rfl
@[simp] theorem State.raiseError_audioChannels (s : State) (e : Raise) (ctx : ErrCtx) : (s.raiseError e ctx).audioChannels = s.audioChannels := rfl
@[simp] theorem State.raiseError_vecLen (s : State) (e : Raise) (ctx : ErrCtx) : (s.raiseError e ctx).vecLen = s.vecLen := rfl
@[simp] theorem State.raiseError_lineLen (s : State) (e : Raise) (ctx : ErrCtx) : (s.raiseError e ctx).lineLen = s.lineLen := rfl
@[simp] theorem State.raiseError_op0 (s : State) (e : Raise) (ctx : ErrCtx) : (s.raiseError e ctx).op0 = s.op0 := rfl
@[simp] theorem State.raiseError_op1 (s : State) (e : Raise) (ctx : ErrCtx) : (s.raiseError e ctx).op1 = s.op1 := rfl
@[simp] theorem State.raiseError_op2 (s : State) (e : Raise) (ctx : ErrCtx) : (s.raiseError e ctx).op2 = s.op2 := rfl
@[simp] theorem State.raiseError_op3 (s : State) (e : Raise) (ctx : ErrCtx) : (s.raiseError e ctx).op3 = s.op3 := rfl
@[simp] theorem State.raiseError_op4 (s : State) (e : Raise) (ctx : ErrCtx) : (s.raiseError e ctx).op4 = s.op4 := rfl
@[simp] theorem State.raiseError_res0 (s : State) (e : Raise) (ctx : ErrCtx) : (s.raiseError e ctx).res0 = s.res0 := rfl
@[simp] theorem State.raiseError_res1 (s : State) (e : Raise) (ctx : ErrCtx) : (s.raiseError e ctx).res1 = s.res1 := rfl
@[simp] theorem State.raiseError_mem (s : State) (e : Raise) (ctx : ErrCtx) : (s.raiseError e ctx).mem = s.mem := rfl
@[simp] theorem State.raiseError_huffWork (s : State) (e : Raise) (ctx : ErrCtx) : (s.raiseError e ctx).huffWork = s.huffWork := rfl
@[simp] theorem State.raiseError_record (s : State) (e : Raise) (ctx : ErrCtx) : (s.raiseError e ctx).record = s.record := rfl
@[simp] theorem State.raiseError_parse (s : State) (e : Raise) (ctx : ErrCtx) : (s.raiseError e ctx).parse = ParseVars.none := rfl
@[simp] theorem State.raiseError_bus (s : State) (e : Raise) (ctx : ErrCtx) : (s.raiseError e ctx).bus = s.bus := rfl
@[simp] theorem State.raiseError_readData (s : State) (e : Raise) (ctx : ErrCtx) : (s.raiseError e ctx).readData = s.readData := rfl
@[simp] theorem State.raiseError_resets (s : State) (e : Raise) (ctx : ErrCtx) : (s.raiseError e ctx).resets = s.resets := rfl
@[simp] theorem State.raiseError_draws (s : State) (e : Raise) (ctx : ErrCtx) : (s.raiseError e ctx).draws = s.draws := rfl

/-! ### withBitPos -/
@[simp] theorem State.withBitPos_params (s : State) (pos : Nat) : (s.withBitPos pos).params = s.params := rfl
@[simp] theorem State.withBitPos_phase (s : State) (pos : Nat) : (s.withBitPos pos).phase = s.phase := rfl
@[simp] theorem State.withBitPos_cmd (s : State) (pos : Nat) : (s.withBitPos pos).cmd = s.cmd := rfl
@[simp] theorem State.withBitPos_done (s : State) (pos : Nat) : (s.withBitPos pos).done = s.done := rfl
@[simp] theorem State.withBitPos_err (s : State) (pos : Nat) : (s.withBitPos pos).err = s.err := rfl
@[simp] theorem State.withBitPos_hostFault (s : State) (pos : Nat) : (s.withBitPos pos).hostFault = s.hostFault := rfl
@[simp] theorem State.withBitPos_errCode (s : State) (pos : Nat) : (s.withBitPos pos).errCode = s.errCode := rfl
@[simp] theorem State.withBitPos_errInfo (s : State) (pos : Nat) : (s.withBitPos pos).errInfo = s.errInfo := rfl
@[simp] theorem State.withBitPos_errAux (s : State) (pos : Nat) : (s.withBitPos pos).errAux = s.errAux := rfl
@[simp] theorem State.withBitPos_errCtx (s : State) (pos : Nat) : (s.withBitPos pos).errCtx = s.errCtx := rfl
@[simp] theorem State.withBitPos_bitPos (s : State) (pos : Nat) : (s.withBitPos pos).bitPos = Word.low pos := rfl
@[simp] theorem State.withBitPos_inLen (s : State) (pos : Nat) : (s.withBitPos pos).inLen = s.inLen := rfl
@[simp] theorem State.withBitPos_audioChannels (s : State) (pos : Nat) : (s.withBitPos pos).audioChannels = s.audioChannels := rfl
@[simp] theorem State.withBitPos_vecLen (s : State) (pos : Nat) : (s.withBitPos pos).vecLen = s.vecLen := rfl
@[simp] theorem State.withBitPos_lineLen (s : State) (pos : Nat) : (s.withBitPos pos).lineLen = s.lineLen := rfl
@[simp] theorem State.withBitPos_op0 (s : State) (pos : Nat) : (s.withBitPos pos).op0 = s.op0 := rfl
@[simp] theorem State.withBitPos_op1 (s : State) (pos : Nat) : (s.withBitPos pos).op1 = s.op1 := rfl
@[simp] theorem State.withBitPos_op2 (s : State) (pos : Nat) : (s.withBitPos pos).op2 = s.op2 := rfl
@[simp] theorem State.withBitPos_op3 (s : State) (pos : Nat) : (s.withBitPos pos).op3 = s.op3 := rfl
@[simp] theorem State.withBitPos_op4 (s : State) (pos : Nat) : (s.withBitPos pos).op4 = s.op4 := rfl
@[simp] theorem State.withBitPos_res0 (s : State) (pos : Nat) : (s.withBitPos pos).res0 = s.res0 := rfl
@[simp] theorem State.withBitPos_res1 (s : State) (pos : Nat) : (s.withBitPos pos).res1 = s.res1 := rfl
@[simp] theorem State.withBitPos_mem (s : State) (pos : Nat) : (s.withBitPos pos).mem = s.mem := rfl
@[simp] theorem State.withBitPos_huffWork (s : State) (pos : Nat) : (s.withBitPos pos).huffWork = s.huffWork := rfl
@[simp] theorem State.withBitPos_record (s : State) (pos : Nat) : (s.withBitPos pos).record = s.record := rfl
@[simp] theorem State.withBitPos_parse (s : State) (pos : Nat) : (s.withBitPos pos).parse = s.parse := rfl
@[simp] theorem State.withBitPos_bus (s : State) (pos : Nat) : (s.withBitPos pos).bus = s.bus := rfl
@[simp] theorem State.withBitPos_readData (s : State) (pos : Nat) : (s.withBitPos pos).readData = s.readData := rfl
@[simp] theorem State.withBitPos_resets (s : State) (pos : Nat) : (s.withBitPos pos).resets = s.resets := rfl
@[simp] theorem State.withBitPos_draws (s : State) (pos : Nat) : (s.withBitPos pos).draws = s.draws := rfl

/-! ### emit -/
@[simp] theorem State.emit_params (s : State) (r : Record) : (s.emit r).params = s.params := rfl
@[simp] theorem State.emit_phase (s : State) (r : Record) : (s.emit r).phase = s.phase := rfl
@[simp] theorem State.emit_cmd (s : State) (r : Record) : (s.emit r).cmd = s.cmd := rfl
@[simp] theorem State.emit_done (s : State) (r : Record) : (s.emit r).done = s.done := rfl
@[simp] theorem State.emit_err (s : State) (r : Record) : (s.emit r).err = s.err := rfl
@[simp] theorem State.emit_hostFault (s : State) (r : Record) : (s.emit r).hostFault = s.hostFault := rfl
@[simp] theorem State.emit_errCode (s : State) (r : Record) : (s.emit r).errCode = s.errCode := rfl
@[simp] theorem State.emit_errInfo (s : State) (r : Record) : (s.emit r).errInfo = s.errInfo := rfl
@[simp] theorem State.emit_errAux (s : State) (r : Record) : (s.emit r).errAux = s.errAux := rfl
@[simp] theorem State.emit_errCtx (s : State) (r : Record) : (s.emit r).errCtx = s.errCtx := rfl
@[simp] theorem State.emit_bitPos (s : State) (r : Record) : (s.emit r).bitPos = s.bitPos := rfl
@[simp] theorem State.emit_inLen (s : State) (r : Record) : (s.emit r).inLen = s.inLen := rfl
@[simp] theorem State.emit_audioChannels (s : State) (r : Record) : (s.emit r).audioChannels = s.audioChannels := rfl
@[simp] theorem State.emit_vecLen (s : State) (r : Record) : (s.emit r).vecLen = s.vecLen := rfl
@[simp] theorem State.emit_lineLen (s : State) (r : Record) : (s.emit r).lineLen = s.lineLen := rfl
@[simp] theorem State.emit_op0 (s : State) (r : Record) : (s.emit r).op0 = s.op0 := rfl
@[simp] theorem State.emit_op1 (s : State) (r : Record) : (s.emit r).op1 = s.op1 := rfl
@[simp] theorem State.emit_op2 (s : State) (r : Record) : (s.emit r).op2 = s.op2 := rfl
@[simp] theorem State.emit_op3 (s : State) (r : Record) : (s.emit r).op3 = s.op3 := rfl
@[simp] theorem State.emit_op4 (s : State) (r : Record) : (s.emit r).op4 = s.op4 := rfl
@[simp] theorem State.emit_res0 (s : State) (r : Record) : (s.emit r).res0 = s.res0 := rfl
@[simp] theorem State.emit_res1 (s : State) (r : Record) : (s.emit r).res1 = s.res1 := rfl
@[simp] theorem State.emit_mem (s : State) (r : Record) : (s.emit r).mem = s.mem := rfl
@[simp] theorem State.emit_huffWork (s : State) (r : Record) : (s.emit r).huffWork = s.huffWork := rfl
@[simp] theorem State.emit_record (s : State) (r : Record) : (s.emit r).record = some r := rfl
@[simp] theorem State.emit_parse (s : State) (r : Record) : (s.emit r).parse = s.parse := rfl
@[simp] theorem State.emit_bus (s : State) (r : Record) : (s.emit r).bus = s.bus := rfl
@[simp] theorem State.emit_readData (s : State) (r : Record) : (s.emit r).readData = s.readData := rfl
@[simp] theorem State.emit_resets (s : State) (r : Record) : (s.emit r).resets = s.resets := rfl
@[simp] theorem State.emit_draws (s : State) (r : Record) : (s.emit r).draws = s.draws := rfl

/-! ### clearRegisters -/
@[simp] theorem State.clearRegisters_params (s : State) : (s.clearRegisters).params = s.params := rfl
@[simp] theorem State.clearRegisters_phase (s : State) : (s.clearRegisters).phase = .idle := rfl
@[simp] theorem State.clearRegisters_cmd (s : State) : (s.clearRegisters).cmd = 0 := rfl
@[simp] theorem State.clearRegisters_done (s : State) : (s.clearRegisters).done = false := rfl
@[simp] theorem State.clearRegisters_err (s : State) : (s.clearRegisters).err = false := rfl
@[simp] theorem State.clearRegisters_hostFault (s : State) : (s.clearRegisters).hostFault = s.hostFault := rfl
@[simp] theorem State.clearRegisters_errCode (s : State) : (s.clearRegisters).errCode = 0 := rfl
@[simp] theorem State.clearRegisters_errInfo (s : State) : (s.clearRegisters).errInfo = 0 := rfl
@[simp] theorem State.clearRegisters_errAux (s : State) : (s.clearRegisters).errAux = 0 := rfl
@[simp] theorem State.clearRegisters_errCtx (s : State) : (s.clearRegisters).errCtx = 0 := rfl
@[simp] theorem State.clearRegisters_bitPos (s : State) : (s.clearRegisters).bitPos = 0 := rfl
@[simp] theorem State.clearRegisters_inLen (s : State) : (s.clearRegisters).inLen = 0 := rfl
@[simp] theorem State.clearRegisters_audioChannels (s : State) : (s.clearRegisters).audioChannels = 0 := rfl
@[simp] theorem State.clearRegisters_vecLen (s : State) : (s.clearRegisters).vecLen = 0 := rfl
@[simp] theorem State.clearRegisters_lineLen (s : State) : (s.clearRegisters).lineLen = 0 := rfl
@[simp] theorem State.clearRegisters_op0 (s : State) : (s.clearRegisters).op0 = 0 := rfl
@[simp] theorem State.clearRegisters_op1 (s : State) : (s.clearRegisters).op1 = 0 := rfl
@[simp] theorem State.clearRegisters_op2 (s : State) : (s.clearRegisters).op2 = 0 := rfl
@[simp] theorem State.clearRegisters_op3 (s : State) : (s.clearRegisters).op3 = 0 := rfl
@[simp] theorem State.clearRegisters_op4 (s : State) : (s.clearRegisters).op4 = 0 := rfl
@[simp] theorem State.clearRegisters_res0 (s : State) : (s.clearRegisters).res0 = 0 := rfl
@[simp] theorem State.clearRegisters_res1 (s : State) : (s.clearRegisters).res1 = 0 := rfl
@[simp] theorem State.clearRegisters_mem (s : State) : (s.clearRegisters).mem = s.mem := rfl
@[simp] theorem State.clearRegisters_huffWork (s : State) : (s.clearRegisters).huffWork = HuffTree.empty := rfl
@[simp] theorem State.clearRegisters_record (s : State) : (s.clearRegisters).record = none := rfl
@[simp] theorem State.clearRegisters_parse (s : State) : (s.clearRegisters).parse = ParseVars.none := rfl
@[simp] theorem State.clearRegisters_bus (s : State) : (s.clearRegisters).bus = s.bus := rfl
@[simp] theorem State.clearRegisters_readData (s : State) : (s.clearRegisters).readData = s.readData := rfl
@[simp] theorem State.clearRegisters_resets (s : State) : (s.clearRegisters).resets = s.resets := rfl
@[simp] theorem State.clearRegisters_draws (s : State) : (s.clearRegisters).draws = s.draws := rfl

/-! ### hardReset -/
@[simp] theorem State.hardReset_params (s : State) : (s.hardReset).params = s.params := rfl
@[simp] theorem State.hardReset_phase (s : State) : (s.hardReset).phase = .idle := rfl
@[simp] theorem State.hardReset_cmd (s : State) : (s.hardReset).cmd = 0 := rfl
@[simp] theorem State.hardReset_done (s : State) : (s.hardReset).done = false := rfl
@[simp] theorem State.hardReset_err (s : State) : (s.hardReset).err = false := rfl
@[simp] theorem State.hardReset_hostFault (s : State) : (s.hardReset).hostFault = false := rfl
@[simp] theorem State.hardReset_errCode (s : State) : (s.hardReset).errCode = 0 := rfl
@[simp] theorem State.hardReset_errInfo (s : State) : (s.hardReset).errInfo = 0 := rfl
@[simp] theorem State.hardReset_errAux (s : State) : (s.hardReset).errAux = 0 := rfl
@[simp] theorem State.hardReset_errCtx (s : State) : (s.hardReset).errCtx = 0 := rfl
@[simp] theorem State.hardReset_bitPos (s : State) : (s.hardReset).bitPos = 0 := rfl
@[simp] theorem State.hardReset_inLen (s : State) : (s.hardReset).inLen = 0 := rfl
@[simp] theorem State.hardReset_audioChannels (s : State) : (s.hardReset).audioChannels = 0 := rfl
@[simp] theorem State.hardReset_vecLen (s : State) : (s.hardReset).vecLen = 0 := rfl
@[simp] theorem State.hardReset_lineLen (s : State) : (s.hardReset).lineLen = 0 := rfl
@[simp] theorem State.hardReset_op0 (s : State) : (s.hardReset).op0 = 0 := rfl
@[simp] theorem State.hardReset_op1 (s : State) : (s.hardReset).op1 = 0 := rfl
@[simp] theorem State.hardReset_op2 (s : State) : (s.hardReset).op2 = 0 := rfl
@[simp] theorem State.hardReset_op3 (s : State) : (s.hardReset).op3 = 0 := rfl
@[simp] theorem State.hardReset_op4 (s : State) : (s.hardReset).op4 = 0 := rfl
@[simp] theorem State.hardReset_res0 (s : State) : (s.hardReset).res0 = 0 := rfl
@[simp] theorem State.hardReset_res1 (s : State) : (s.hardReset).res1 = 0 := rfl
@[simp] theorem State.hardReset_mem (s : State) : (s.hardReset).mem = [] := rfl
@[simp] theorem State.hardReset_huffWork (s : State) : (s.hardReset).huffWork = HuffTree.empty := rfl
@[simp] theorem State.hardReset_record (s : State) : (s.hardReset).record = none := rfl
@[simp] theorem State.hardReset_parse (s : State) : (s.hardReset).parse = ParseVars.none := rfl
@[simp] theorem State.hardReset_bus (s : State) : (s.hardReset).bus = s.bus := rfl
@[simp] theorem State.hardReset_readData (s : State) : (s.hardReset).readData = s.readData := rfl
@[simp] theorem State.hardReset_resets (s : State) : (s.hardReset).resets = s.resets + 1 := rfl
@[simp] theorem State.hardReset_draws (s : State) : (s.hardReset).draws = s.draws := rfl

/-! ### drawRead -/
@[simp] theorem State.drawRead_params (s : State) : (s.drawRead).params = s.params := rfl
@[simp] theorem State.drawRead_phase (s : State) : (s.drawRead).phase = s.phase := rfl
@[simp] theorem State.drawRead_cmd (s : State) : (s.drawRead).cmd = s.cmd := rfl
@[simp] theorem State.drawRead_done (s : State) : (s.drawRead).done = s.done := rfl
@[simp] theorem State.drawRead_err (s : State) : (s.drawRead).err = s.err := rfl
@[simp] theorem State.drawRead_hostFault (s : State) : (s.drawRead).hostFault = s.hostFault := rfl
@[simp] theorem State.drawRead_errCode (s : State) : (s.drawRead).errCode = s.errCode := rfl
@[simp] theorem State.drawRead_errInfo (s : State) : (s.drawRead).errInfo = s.errInfo := rfl
@[simp] theorem State.drawRead_errAux (s : State) : (s.drawRead).errAux = s.errAux := rfl
@[simp] theorem State.drawRead_errCtx (s : State) : (s.drawRead).errCtx = s.errCtx := rfl
@[simp] theorem State.drawRead_bitPos (s : State) : (s.drawRead).bitPos = s.bitPos := rfl
@[simp] theorem State.drawRead_inLen (s : State) : (s.drawRead).inLen = s.inLen := rfl
@[simp] theorem State.drawRead_audioChannels (s : State) : (s.drawRead).audioChannels = s.audioChannels := rfl
@[simp] theorem State.drawRead_vecLen (s : State) : (s.drawRead).vecLen = s.vecLen := rfl
@[simp] theorem State.drawRead_lineLen (s : State) : (s.drawRead).lineLen = s.lineLen := rfl
@[simp] theorem State.drawRead_op0 (s : State) : (s.drawRead).op0 = s.op0 := rfl
@[simp] theorem State.drawRead_op1 (s : State) : (s.drawRead).op1 = s.op1 := rfl
@[simp] theorem State.drawRead_op2 (s : State) : (s.drawRead).op2 = s.op2 := rfl
@[simp] theorem State.drawRead_op3 (s : State) : (s.drawRead).op3 = s.op3 := rfl
@[simp] theorem State.drawRead_op4 (s : State) : (s.drawRead).op4 = s.op4 := rfl
@[simp] theorem State.drawRead_res0 (s : State) : (s.drawRead).res0 = s.res0 := rfl
@[simp] theorem State.drawRead_res1 (s : State) : (s.drawRead).res1 = s.res1 := rfl
@[simp] theorem State.drawRead_mem (s : State) : (s.drawRead).mem = s.mem := rfl
@[simp] theorem State.drawRead_huffWork (s : State) : (s.drawRead).huffWork = s.huffWork := rfl
@[simp] theorem State.drawRead_record (s : State) : (s.drawRead).record = s.record := rfl
@[simp] theorem State.drawRead_parse (s : State) : (s.drawRead).parse = s.parse := rfl
@[simp] theorem State.drawRead_bus (s : State) : (s.drawRead).bus = s.bus := rfl
@[simp] theorem State.drawRead_readData (s : State) : (s.drawRead).readData = Config.busDraw s.draws := rfl
@[simp] theorem State.drawRead_resets (s : State) : (s.drawRead).resets = s.resets := rfl
@[simp] theorem State.drawRead_draws (s : State) : (s.drawRead).draws = s.draws + 1 := rfl

end Sys2Proof.Machine
end

