-- ==== Sys2Proof/Laws/Engine.lean ====
section
/-!
SUPPORT. What the shared operations, an instruction, a turn and a step can do, said once.
-/

namespace Sys2Proof.Machine

/-! ## Completions -/

theorem State.complete_eq (s : State) (a b : Word) : s.complete a b = s.afterSuccess a b := rfl

theorem State.raiseError_eq (s : State) (e : Raise) (ctx : ErrCtx) :
    s.raiseError e ctx = s.afterError e.kind.code (Word.low e.info) (Word.low e.aux) ctx.word := rfl

theorem State.violation_eq (s : State) (reason aux : Nat) :
    s.violation reason aux = s.afterError 15 (Word.low reason) (Word.low aux) 0 := rfl

@[simp] theorem ErrCtx.word_none : ErrCtx.none.word = 0 := rfl

theorem ErrKind.code_range (k : ErrKind) : 1 ≤ k.code.toNat ∧ k.code.toNat ≤ 17 := by cases k <;> decide

@[simp] theorem State.endDecode_ok (s : State) (start : Nat) (r : Record) (c : Cursor) :
    s.endDecode start (.ok r c) =
      ({ s with bitPos := Word.low c.pos, record := some r }).afterSuccess (Word.low (c.pos - start)) 0 := rfl

@[simp] theorem State.endDecode_error (s : State) (start : Nat) (e : Raise) (c : Cursor) :
    s.endDecode start (.error e c) =
      ({ s with bitPos := Word.low c.pos }).afterError e.kind.code (Word.low e.info) (Word.low e.aux) c.ctx.word :=
  rfl

/-- The context word of a record: the stage, and the index in bits [15:8] (10_state.md R37). -/
theorem ErrCtx.word_record (stage : Stage) (index : Nat) :
    ErrCtx.word ⟨stage, false, index⟩ = BitVec.ofNat 16 (stage.code + 256 * (index % 256)) := rfl

/-- A decode command: refused by its start check, or ended by what its decoder answers. -/
theorem State.runDecode_of_check {s : State} {mapped : Bool} (h : s.decodeCheck mapped = none) (start : Nat)
    (ctx : ErrCtx) (decoder : Parser Record) :
    s.runDecode mapped start ctx decoder = s.endDecode start (decoder ⟨start, ctx⟩) := by
  simp [State.runDecode, h]

theorem State.runDecode_cases (s : State) (mapped : Bool) (start : Nat) (ctx : ErrCtx) (decoder : Parser Record) :
    (∃ reason aux, s.decodeCheck mapped = some (reason, aux) ∧
      s.runDecode mapped start ctx decoder = s.afterError 15 (Word.low reason) (Word.low aux) 0) ∨
    (∃ r c, s.decodeCheck mapped = none ∧ decoder ⟨start, ctx⟩ = .ok r c ∧
      s.runDecode mapped start ctx decoder =
        ({ s with bitPos := Word.low c.pos, record := some r }).afterSuccess (Word.low (c.pos - start)) 0) ∨
    (∃ e c, s.decodeCheck mapped = none ∧ decoder ⟨start, ctx⟩ = .error e c ∧
      s.runDecode mapped start ctx decoder =
        ({ s with bitPos := Word.low c.pos }).afterError
          e.kind.code (Word.low e.info) (Word.low e.aux) c.ctx.word) := by
  cases h : s.decodeCheck mapped with
  | some p => exact .inl ⟨p.1, p.2, rfl, by simp [State.runDecode, h, State.violation_eq]⟩
  | none =>
    rw [State.runDecode_of_check h]
    cases hd : decoder ⟨start, ctx⟩ with
    | ok r c => exact .inr (.inl ⟨r, c, rfl, rfl, rfl⟩)
    | error e c => exact .inr (.inr ⟨e, c, rfl, rfl, rfl⟩)

theorem State.decodeCheck_none {s : State} (mapped : Bool) (hlen : s.inLen.toNat ≤ s.params.inCap)
    (hch : mapped = true → s.audioChannels ≠ 0) : s.decodeCheck mapped = none := by
  have h255 : s.audioChannels.toNat ≤ 255 := by have := s.audioChannels.isLt; omega
  have h1 : mapped = true → 1 ≤ s.audioChannels.toNat := fun h => by
    have := hch h
    rcases Nat.eq_zero_or_pos s.audioChannels.toNat with h0 | h0
    · exact absurd (BitVec.eq_of_toNat_eq (by simpa using h0)) this
    · exact h0
  unfold State.decodeCheck State.channels
  rw [if_neg (by omega)]
  cases mapped with
  | false => simp
  | true =>
    have := h1 rfl
    rw [if_neg (by simp; omega)]

/-- One field of a decode command: the engine goes on, or the command ends. -/
theorem State.applyField_cases (s : State) (f : Parser Progress) :
    (∃ v c, f ⟨s.bitPos.toNat, s.parse.ctx⟩ = .ok (.more v) c ∧
      s.applyField f = { s with bitPos := Word.low c.pos, parse := v }) ∨
    (∃ r c, f ⟨s.bitPos.toNat, s.parse.ctx⟩ = .ok (.emit r) c ∧
      s.applyField f =
        ({ s with bitPos := Word.low c.pos, record := some r }).afterSuccess
          (Word.low (c.pos - s.parse.start)) 0) ∨
    (∃ e c, f ⟨s.bitPos.toNat, s.parse.ctx⟩ = .error e c ∧
      s.applyField f =
        ({ s with bitPos := Word.low c.pos }).afterError
          e.kind.code (Word.low e.info) (Word.low e.aux) c.ctx.word) := by
  unfold State.applyField
  cases h : f ⟨s.bitPos.toNat, s.parse.ctx⟩ with
  | ok g c =>
    cases g with
    | more v => exact .inl ⟨v, c, rfl, rfl⟩
    | emit r => exact .inr (.inl ⟨r, c, rfl, rfl⟩)
  | error e c => exact .inr (.inr ⟨e, c, rfl, rfl⟩)

/-! ## Instructions, turns and steps -/

/-- Every instruction answers a next state, in every state. -/
theorem exec_next (i : Instr) (s : State) : ∃ t, exec i s = .next t := by cases i <;> exact ⟨_, rfl⟩

/-- What a step is, by whose turn it is. -/
theorem step_of_done {s t : State} (h : s.nextTurn = .done t) : step s = .next t := by simp [step, h]

theorem step_of_run {s t : State} {i : Instr} (h : s.nextTurn = .run i t) : step s = exec i t := by simp [step, h]

/-- An event lands: at any moment of its choice while the engine is IDLE, at its own while it is BUSY. -/
theorem nextTurn_event {s : State} {e : Pending} {rest : List Pending} (hb : s.bus = e :: rest)
    (h : s.phase = .idle ∨ e.wait = some 0) :
    s.nextTurn = .done (({ s with bus := rest }).hostEvent e.event) := by
  unfold State.nextTurn
  cases hp : s.phase with
  | idle => simp [hb]
  | busy =>
    have hw : e.wait = some 0 := by simpa [hp] using h
    simp [hb, hw]

theorem nextTurn_engine {s : State} (hp : s.phase = .busy) (h : s.undisturbed) : s.nextTurn = s.engineTurn := by
  unfold State.nextTurn
  cases hb : s.bus with
  | nil => simp [hp]
  | cons e rest =>
    have hw : e.wait = none := h e (by simp [hb])
    simp [hp, hw]

theorem nextTurn_move {s : State} {k : Nat} {e : HostEvent} {rest : List Pending} (hp : s.phase = .busy)
    (hb : s.bus = ⟨some (k + 1), e⟩ :: rest) :
    s.nextTurn = ({ s with bus := ⟨some k, e⟩ :: rest }).engineMove := by
  unfold State.nextTurn
  simp [hp, hb]

/-- A bus access at an offset of the block reaches the block at that offset. -/
@[simp] theorem busOffset_base {p : Params} {offset : Nat} (h : offset < 2 ^ 32) :
    busOffset p (p.base + offset) = some offset := by
  unfold busOffset
  rw [if_pos ⟨by omega, by omega⟩, Nat.add_sub_cancel_left]

end Sys2Proof.Machine
end

