-- ==== Sys2Proof/Laws/PerInstr.lean ====
section
/-!
SUPPORT. Statements about every instruction as syntax, one lemma per constructor.
-/

namespace Sys2Proof.Laws.EncodingFits

/-- The encoding of an instruction fits its field, decodes at that field to the instruction, and is found by the table's
numbering. -/
def Statement (i : Instr) : Prop :=
  (encode i).2 < 2 ^ (encode i).1.width ∧ decodeField (encode i).1 (encode i).2 = .ok i ∧
    (fieldOfTableWord (encode i).1.tableBits (encode i).2).isSome = true

theorem readBits : Statement .readBits := ⟨by decide, rfl, by decide⟩
theorem ilog : Statement .ilog := ⟨by decide, rfl, by decide⟩
theorem float32Unpack : Statement .float32Unpack := ⟨by decide, rfl, by decide⟩
theorem lookup1Values : Statement .lookup1Values := ⟨by decide, rfl, by decide⟩
theorem lowNeighbor : Statement .lowNeighbor := ⟨by decide, rfl, by decide⟩
theorem highNeighbor : Statement .highNeighbor := ⟨by decide, rfl, by decide⟩
theorem renderPoint : Statement .renderPoint := ⟨by decide, rfl, by decide⟩
theorem renderLine : Statement .renderLine := ⟨by decide, rfl, by decide⟩
theorem huffClear : Statement .huffClear := ⟨by decide, rfl, by decide⟩
theorem huffAddNode : Statement .huffAddNode := ⟨by decide, rfl, by decide⟩
theorem decodeCodebook : Statement .decodeCodebook := ⟨by decide, rfl, by decide⟩
theorem decodeFloor : Statement .decodeFloor := ⟨by decide, rfl, by decide⟩
theorem decodeResidue : Statement .decodeResidue := ⟨by decide, rfl, by decide⟩
theorem decodeMapping : Statement .decodeMapping := ⟨by decide, rfl, by decide⟩
theorem decodeMode : Statement .decodeMode := ⟨by decide, rfl, by decide⟩
theorem decodeTdt : Statement .decodeTdt := ⟨by decide, rfl, by decide⟩
theorem decodeSetup : Statement .decodeSetup := ⟨by decide, rfl, by decide⟩
theorem codebookSync : Statement .codebookSync := ⟨by decide, rfl, by decide⟩
theorem codebookLookupNone : Statement .codebookLookupNone := ⟨by decide, rfl, by decide⟩
theorem codebookLookupType1 : Statement .codebookLookupType1 := ⟨by decide, rfl, by decide⟩
theorem codebookLookupType2 : Statement .codebookLookupType2 := ⟨by decide, rfl, by decide⟩
theorem floorType0 : Statement .floorType0 := ⟨by decide, rfl, by decide⟩
theorem floorType1 : Statement .floorType1 := ⟨by decide, rfl, by decide⟩
theorem residueType0 : Statement .residueType0 := ⟨by decide, rfl, by decide⟩
theorem residueType1 : Statement .residueType1 := ⟨by decide, rfl, by decide⟩
theorem residueType2 : Statement .residueType2 := ⟨by decide, rfl, by decide⟩
theorem mappingType0 : Statement .mappingType0 := ⟨by decide, rfl, by decide⟩
theorem mappingReserved : Statement .mappingReserved := ⟨by decide, rfl, by decide⟩
theorem modeWindowType0 : Statement .modeWindowType0 := ⟨by decide, rfl, by decide⟩
theorem modeTransformType0 : Statement .modeTransformType0 := ⟨by decide, rfl, by decide⟩
theorem tdtReserved : Statement .tdtReserved := ⟨by decide, rfl, by decide⟩
theorem setupFraming : Statement .setupFraming := ⟨by decide, rfl, by decide⟩

end Sys2Proof.Laws.EncodingFits
end

