-- ==== Sys2Proof/Tests/Slice0.lean ====
section
/-!
SUPPORT. The model's own tests: the well-formedness checks refuse ill-formed terms, every constructor is decoded from a
word written out from 30_encoding.md, small vectors of 95_test_vectors.md (named in each comment), and a witness for
the hypotheses of every statement.
-/

namespace Sys2Proof.Tests

set_option Elab.async false

open Sys2Proof.Machine

/-! ## Helpers -/

/-- Bytes from an offset on. -/
def bytesAt (offset : Nat) (bytes : List Nat) : Memory :=
  (List.range bytes.length).zipWith (fun k b => (offset + k, BitVec.ofNat 8 b)) bytes

/-- 32-bit words from an offset on, as bytes. -/
def wordsAt (offset : Nat) (words : List Nat) : Memory :=
  bytesAt offset (words.flatMap fun w => [w % 256, w / 256 % 256, w / 65536 % 256, w / 16777216 % 256])

/-- The block BUSY with a command just started, and operands. -/
def started (op0 op1 op2 op3 op4 : Word) : State :=
  { State.reset with phase := .busy, op0 := op0, op1 := op1, op2 := op2, op3 := op3, op4 := op4 }

/-- The block BUSY with a payload, a cursor and a channel count. -/
def loaded (bytes : List Nat) (pos channels : Nat) : State :=
  { State.reset with
    phase := .busy
    mem := bytesAt inBase bytes
    inLen := Word.low bytes.length
    bitPos := Word.low pos
    audioChannels := BitVec.ofNat 8 channels }

/-- The block BUSY inside a decode command, at a point. -/
def atPoint (point : Point) (bytes : List Nat) : State :=
  { loaded bytes 0 1 with parse := { ParseVars.none with point := point } }

/-- The block IDLE with one host event pending. -/
def pending (e : HostEvent) : State := { State.reset with bus := [⟨none, e⟩] }

/-- The block BUSY with one host event landing now. -/
def landing (e : HostEvent) : State := { State.reset with phase := .busy, cmd := 0x02, bus := [⟨some 0, e⟩] }

/-- The next state of an instruction, and of a step. -/
def after (i : Instr) (s : State) : Option State :=
  match exec i s with
  | .next t => some t
  | .fault _ => none
  | .refused _ => none

def afterStep (s : State) : Option State :=
  match step s with
  | .next t => some t
  | .fault _ => none
  | .refused _ => none

/-- What a vector compares: RES0, RES1, BIT_POS and STATUS. -/
def result (i : Instr) (s : State) : Option (Word × Word × Word × Word) :=
  (after i s).map fun t => (t.res0, t.res1, t.bitPos, t.statusWord)

/-- What an error vector compares: ERR_CODE, ERR_INFO, ERR_AUX, ERR_CTX and BIT_POS. -/
def failure (i : Instr) (s : State) : Option (Byte × Word × Word × BitVec 16 × Word) :=
  (after i s).map fun t => (t.errCode, t.errInfo, t.errAux, t.errCtx, t.bitPos)

/-- The record an instruction leaves. -/
def recordOf (i : Instr) (s : State) : Option Record := (after i s).bind State.record

/-- 95_test_vectors.md V1. -/
def v1 : List Nat := [66, 67, 86, 1, 0, 8, 0, 0, 0, 49, 76, 32, 197, 128]

/-! ## The well-formedness checks refuse -/

theorem test_wf_params :
    Params.default.wf ∧ ¬ ({ Params.default with inCap := 0 }).wf ∧ ¬ ({ Params.default with inCap := 2 ^ 28 + 1 }).wf ∧
    ¬ ({ Params.default with vecCap := 64 }).wf ∧ ¬ ({ Params.default with vecCap := 1025 }).wf ∧
    ¬ ({ Params.default with lineCap := 0 }).wf ∧ ¬ ({ Params.default with lineCap := 16385 }).wf ∧
    ¬ ({ Params.default with huffCap := 0 }).wf ∧ ¬ ({ Params.default with huffCap := 65537 }).wf ∧
    ¬ ({ Params.default with entryCap := some (2 ^ 24) }).wf := by and_intros <;> decide

theorem test_wf_tree :
    HuffTree.wf HuffTree.empty ∧ ¬ HuffTree.wf [] ∧ ¬ HuffTree.wf [.leaf 0] ∧
    ¬ HuffTree.wf [.internal (some 0) none] ∧ ¬ HuffTree.wf [.internal (some 1) none] ∧
    ¬ HuffTree.wf [.internal none none, .leaf 0] ∧ ¬ HuffTree.wf [.internal (some 1) (some 1), .leaf 0] := by and_intros <;> decide

/-- A legal table of lookup type 2 for 2 entries of 1 dimension. -/
def table : VectorLookupTable := ⟨0, 0, 1, false, 2, [0, 1]⟩

theorem test_wf_table :
    table.wf ∧ table.countOk 2 2 1 ∧ ¬ ({ table with valueBits := 0 }).wf ∧ ¬ ({ table with valueBits := 17 }).wf ∧
    ¬ ({ table with multiplicands := [0] }).wf ∧ ¬ ({ table with multiplicands := [0, 2] }).wf ∧
    ¬ table.countOk 2 3 1 ∧ ¬ table.countOk 1 3 1 ∧ ¬ table.countOk 1 1 1 ∧ ¬ table.countOk 1 2 0 := by and_intros <;> decide

/-- A legal codebook with one entry. -/
def book : Codebook :=
  ⟨1, 1, false, some false, [some 1], 0, none, [.internal (some 1) none, .leaf 0]⟩

theorem test_wf_codebook :
    book.wf ∧ ¬ ({ book with dimensions := 65536 }).wf ∧ ¬ ({ book with entries := 2 }).wf ∧
    ¬ ({ book with ordered := true }).wf ∧ ¬ ({ book with sparse := none }).wf ∧
    ¬ ({ book with ordered := true, sparse := none, codewordLengths := [none] }).wf ∧
    ¬ ({ book with codewordLengths := [some 0] }).wf ∧ ¬ ({ book with codewordLengths := [some 33] }).wf ∧
    ¬ ({ book with lookupType := 3, vectorLookupTable := some table }).wf ∧ ¬ ({ book with lookupType := 1 }).wf ∧
    ¬ ({ book with vectorLookupTable := some table }).wf ∧
    ¬ ({ book with lookupType := 2, vectorLookupTable := some table }).wf ∧
    ¬ ({ book with huffmanTree := [] }).wf := by and_intros <;> decide

/-- `entries` alone: the length list would need 2^24 entries to meet the other clauses. -/
theorem test_wf_codebook_entries (c : Codebook) (h : c.entries = 2 ^ 24) : ¬ c.wf := fun hw => by
  have := hw.2.1
  omega

/-- A legal type 0 floor. -/
def floor0 : Floor0 := ⟨8, 44100, 256, 6, 100, 2, [3, 4]⟩

theorem test_wf_floor0 :
    floor0.wf ∧ ¬ ({ floor0 with order := 256 }).wf ∧ ¬ ({ floor0 with rate := 65536 }).wf ∧
    ¬ ({ floor0 with barkMapSize := 65536 }).wf ∧ ¬ ({ floor0 with amplitudeBits := 64 }).wf ∧
    ¬ ({ floor0 with amplitudeOffset := 256 }).wf ∧ ¬ ({ floor0 with numberOfBooks := 0, bookList := [] }).wf ∧
    ¬ ({ floor0 with numberOfBooks := 17, bookList := List.replicate 17 0 }).wf ∧
    ¬ ({ floor0 with bookList := [3] }).wf ∧ ¬ ({ floor0 with bookList := [3, 256] }).wf := by and_intros <;> decide

/-- A legal class, and a legal type 1 floor of one partition. -/
def floorClass : FloorClass := ⟨1, 0, none, [4]⟩
def floor1 : Floor1 := ⟨1, [0], 0, [floorClass], 1, 2, [0, 4, 3]⟩

theorem test_wf_class :
    floorClass.wf ∧ ¬ ({ floorClass with dimensions := 0 }).wf ∧ ¬ ({ floorClass with dimensions := 9 }).wf ∧
    ¬ ({ floorClass with subclasses := 4, masterbooks := some 0, subclassBooks := List.replicate 16 0 }).wf ∧
    ¬ ({ floorClass with masterbooks := some 0 }).wf ∧
    ¬ ({ floorClass with subclasses := 1, subclassBooks := [0, 0] }).wf ∧
    ¬ ({ floorClass with subclasses := 1, masterbooks := some 256, subclassBooks := [0, 0] }).wf ∧
    ¬ ({ floorClass with subclassBooks := [] }).wf ∧ ¬ ({ floorClass with subclassBooks := [-2] }).wf ∧
    ¬ ({ floorClass with subclassBooks := [255] }).wf := by and_intros <;> decide

theorem test_wf_floor1 :
    floor1.wf ∧ ¬ ({ floor1 with partitions := 0, partitionClassList := [] }).wf ∧
    ¬ ({ floor1 with partitions := 32, partitionClassList := List.replicate 32 0 }).wf ∧
    ¬ ({ floor1 with partitionClassList := [0, 0] }).wf ∧ ¬ ({ floor1 with partitionClassList := [1] }).wf ∧
    ¬ ({ floor1 with maximumClass := 1, classes := [floorClass, floorClass] }).wf ∧
    ¬ ({ floor1 with
      maximumClass := 16, partitionClassList := [16], classes := List.replicate 17 floorClass }).wf ∧
    ¬ ({ floor1 with classes := [] }).wf ∧ ¬ ({ floor1 with classes := [{ floorClass with dimensions := 9 }] }).wf ∧
    ¬ ({ floor1 with multiplier := 0 }).wf ∧ ¬ ({ floor1 with multiplier := 5 }).wf ∧
    ¬ ({ floor1 with rangebits := 16, xList := [0, 65536, 3] }).wf ∧
    ¬ ({ floor1 with xList := [0, 4] }).wf ∧ ¬ ({ floor1 with xList := [1, 4, 3] }).wf ∧
    ¬ ({ floor1 with xList := [0, 5, 3] }).wf ∧ ¬ ({ floor1 with xList := [0, 4, 4] }).wf := by and_intros <;> decide

/-- Eight partitions of a class of eight dimensions: 66 x values. -/
def longFloor : Floor1 :=
  ⟨8, List.replicate 8 0, 0, [⟨8, 0, none, [4]⟩], 1, 2, 0 :: 4 :: List.replicate 64 1⟩

theorem test_wf_floor1_long : ¬ longFloor.wf := by decide

/-- A legal residue with one classification and cascade 2. -/
def residue : Residue := ⟨0, 0, 16, 8, 1, 3, [2], [[none, some 5, none, none, none, none, none, none]]⟩

theorem test_wf_residue :
    residue.wf ∧ ¬ ({ residue with residueType := 3 }).wf ∧ ¬ ({ residue with beginBound := 2 ^ 24 }).wf ∧
    ¬ ({ residue with endBound := 2 ^ 24 }).wf ∧ ¬ ({ residue with partitionSize := 0 }).wf ∧
    ¬ ({ residue with partitionSize := 2 ^ 24 + 1 }).wf ∧
    ¬ ({ residue with classifications := 0, cascade := [], books := [] }).wf ∧
    ¬ ({ residue with
      classifications := 65, cascade := List.replicate 65 0
      books := List.replicate 65 (List.replicate 8 none) }).wf ∧
    ¬ ({ residue with classbook := 256 }).wf ∧ ¬ ({ residue with cascade := [] }).wf ∧
    ¬ ({ residue with cascade := [258] }).wf ∧ ¬ ({ residue with books := [] }).wf ∧
    ¬ ({ residue with cascade := [3] }).wf ∧ ¬ ({ residue with books := [[none, some 5]] }).wf ∧
    ¬ ({ residue with books := [[none, some 256, none, none, none, none, none, none]] }).wf := by and_intros <;> decide

/-- A legal stereo mapping with one coupling step. -/
def mapping : Mapping := ⟨0, 2, 1, [0], [1], [0, 1], [⟨1, 2⟩, ⟨3, 4⟩]⟩

theorem test_wf_mapping :
    mapping.wf ∧ ¬ ({ mapping with mappingType := 1 }).wf ∧
    ¬ ({ mapping with submaps := 0, mux := [], submapsVec := [], couplingSteps := 0, magnitude := [], angle := [] }).wf ∧
    ¬ ({ mapping with submaps := 17, submapsVec := List.replicate 17 ⟨0, 0⟩ }).wf ∧
    ¬ ({ mapping with
      couplingSteps := 257, magnitude := List.replicate 257 0, angle := List.replicate 257 1 }).wf ∧
    ¬ ({ mapping with magnitude := [] }).wf ∧ ¬ ({ mapping with angle := [] }).wf ∧
    ¬ ({ mapping with angle := [0] }).wf ∧ ¬ ({ mapping with magnitude := [2] }).wf ∧
    ¬ ({ mapping with angle := [2] }).wf ∧ ¬ ({ mapping with mux := [0, 2] }).wf ∧
    ¬ ({ mapping with submapsVec := [⟨1, 2⟩] }).wf ∧ ¬ ({ mapping with submapsVec := [⟨1, 2⟩, ⟨256, 4⟩] }).wf ∧
    ¬ ({ mapping with submapsVec := [⟨1, 2⟩, ⟨3, 256⟩] }).wf := by and_intros <;> decide

/-- A legal mode and the header with one record of each kind. -/
def mode : Mode := ⟨true, 0, 0, 3⟩
def header : SetupHeader := ⟨[book], [⟨0⟩], [.zero floor0], [residue], [mapping], [mode]⟩

theorem test_wf_mode_tdt :
    mode.wf ∧ ¬ ({ mode with windowType := 1 }).wf ∧ ¬ ({ mode with transformType := 1 }).wf ∧
    ¬ ({ mode with mapping := 256 }).wf ∧ TimeDomainTransform.wf ⟨0⟩ ∧ ¬ TimeDomainTransform.wf ⟨1⟩ := by and_intros <;> decide

/-- The length of each list, and one ill-formed record of each kind. -/
theorem test_wf_setup_lengths (h : SetupHeader)
    (hl : h.codebooks.length = 0 ∨ h.codebooks.length = 257 ∨ h.timeDomainTransforms.length = 0 ∨
      h.timeDomainTransforms.length = 65 ∨ h.floors.length = 0 ∨ h.floors.length = 65 ∨ h.residues.length = 0 ∨
      h.residues.length = 65 ∨ h.mappings.length = 0 ∨ h.mappings.length = 65 ∨ h.modes.length = 0 ∨
      h.modes.length = 65) : ¬ h.wf := by
  rintro ⟨⟨h1, -⟩, ⟨h2, -⟩, ⟨h3, -⟩, ⟨h4, -⟩, ⟨h5, -⟩, ⟨h6, -⟩⟩
  omega

theorem test_wf_setup_records :
    ¬ ({ header with codebooks := [{ book with dimensions := 65536 }] }).wf ∧
    ¬ ({ header with timeDomainTransforms := [⟨1⟩] }).wf ∧
    ¬ ({ header with floors := [.zero { floor0 with order := 256 }] }).wf ∧
    ¬ ({ header with residues := [{ residue with residueType := 3 }] }).wf ∧
    ¬ ({ header with mappings := [{ mapping with mappingType := 1 }] }).wf ∧
    ¬ ({ header with modes := [{ mode with mapping := 256 }] }).wf :=
  ⟨fun h => absurd (h.1.2 _ List.mem_cons_self) (by decide), fun h => absurd (h.2.1.2 _ List.mem_cons_self) (by decide),
   fun h => absurd (h.2.2.1.2 _ List.mem_cons_self) test_wf_floor0.2.1,
   fun h => absurd (h.2.2.2.1.2 _ List.mem_cons_self) (by decide),
   fun h => absurd (h.2.2.2.2.1.2 _ List.mem_cons_self) (by decide),
   fun h => absurd (h.2.2.2.2.2.2 _ List.mem_cons_self) (by decide)⟩

theorem test_wf_header : header.wf := by
  refine ⟨⟨by decide, ?_⟩, ⟨by decide, by decide⟩, ⟨by decide, ?_⟩, ⟨by decide, ?_⟩, ⟨by decide, ?_⟩,
    ⟨by decide, by decide⟩⟩
  · intro r hr; rw [List.mem_singleton.mp hr]; decide
  · intro r hr
    rw [List.mem_singleton.mp hr]
    exact test_wf_floor0.1
  · intro r hr; rw [List.mem_singleton.mp hr]; decide
  · intro r hr; rw [List.mem_singleton.mp hr]; decide

theorem test_wf_record :
    ¬ Record.wf (.mode { mode with mapping := 256 }) ∧ ¬ Record.wf (.floor (.zero { floor0 with order := 256 })) :=
  ⟨test_wf_mode_tdt.2.2.2.1, test_wf_floor0.2.1⟩

theorem test_wf_script : ScriptLine.wf (.cmd .ilog) ∧ ¬ ScriptLine.wf (.cmd .setupFraming) :=
  ⟨rfl, by intro h; exact absurd h (by decide)⟩

/-! ## Decoding, from words written out from 30_encoding.md R102 and R108 to R115 -/

theorem test_decode_numeric :
    decodeCommandWord 0b00000001 = .ok .readBits ∧ decodeCommandWord 0b00000010 = .ok .ilog ∧
    decodeCommandWord 0b00000011 = .ok .float32Unpack ∧ decodeCommandWord 0b00000100 = .ok .lookup1Values ∧
    decodeCommandWord 0b00000101 = .ok .lowNeighbor ∧ decodeCommandWord 0b00000110 = .ok .highNeighbor ∧
    decodeCommandWord 0b00000111 = .ok .renderPoint ∧ decodeCommandWord 0b00001000 = .ok .renderLine :=
  ⟨rfl, rfl, rfl, rfl, rfl, rfl, rfl, rfl⟩

theorem test_decode_huffman_and_decode :
    decodeCommandWord 0b00001001 = .ok .huffClear ∧ decodeCommandWord 0b00001010 = .ok .huffAddNode ∧
    decodeCommandWord 0b00010000 = .ok .decodeCodebook ∧ decodeCommandWord 0b00010001 = .ok .decodeFloor ∧
    decodeCommandWord 0b00010010 = .ok .decodeResidue ∧ decodeCommandWord 0b00010011 = .ok .decodeMapping ∧
    decodeCommandWord 0b00010100 = .ok .decodeMode ∧ decodeCommandWord 0b00010101 = .ok .decodeTdt ∧
    decodeCommandWord 0b00100000 = .ok .decodeSetup :=
  ⟨rfl, rfl, rfl, rfl, rfl, rfl, rfl, rfl, rfl⟩

/-- Bits [31:8] of CMD are ignored (10_state.md R34), and 0x00 is unassigned. -/
theorem test_decode_reserved_bits :
    decodeCommandWord 0xABCDEF02 = .ok .ilog ∧ decodeCommandWord 0xABCDEF00 = .error (.unassignedOpcode 0) :=
  ⟨rfl, rfl⟩

theorem test_decode_tags :
    decodeField .codebookSync 0b010101100100001101000010 = .ok .codebookSync ∧
    decodeField .codebookLookup 0b0000 = .ok .codebookLookupNone ∧
    decodeField .codebookLookup 0b0001 = .ok .codebookLookupType1 ∧
    decodeField .codebookLookup 0b0010 = .ok .codebookLookupType2 ∧
    decodeField .floorType 0b0000000000000000 = .ok .floorType0 ∧
    decodeField .floorType 0b0000000000000001 = .ok .floorType1 ∧
    decodeField .residueType 0b0000000000000000 = .ok .residueType0 ∧
    decodeField .residueType 0b0000000000000001 = .ok .residueType1 ∧
    decodeField .residueType 0b0000000000000010 = .ok .residueType2 ∧
    decodeField .mappingType 0b0000000000000000 = .ok .mappingType0 ∧
    decodeField .mappingReserved 0b00 = .ok .mappingReserved ∧
    decodeField .modeWindow 0b0000000000000000 = .ok .modeWindowType0 ∧
    decodeField .modeTransform 0b0000000000000000 = .ok .modeTransformType0 ∧
    decodeField .tdtReserved 0b0000000000000000 = .ok .tdtReserved ∧
    decodeField .setupFraming 0b1 = .ok .setupFraming :=
  ⟨rfl, rfl, rfl, rfl, rfl, rfl, rfl, rfl, rfl, rfl, rfl, rfl, rfl, rfl, rfl⟩

/-- The words of spec/opcode_table.json whose length alone names the field. -/
theorem test_decode_table_words :
    decodeTableWord 8 0x20 = some .decodeSetup ∧ decodeTableWord 24 0x564342 = some .codebookSync ∧
    decodeTableWord 16 1 = some .floorType1 ∧ decodeTableWord 16 2 = some .residueType2 ∧
    decodeTableWord 8 0x0B = none ∧ decodeTableWord 24 0 = none := by decide

/-- The word of each row, placed for the next step, runs. -/
theorem test_fetch_word :
    ((afterStep (State.reset.withFetchWord 8 0x02)).map State.done) = some true ∧
    ((afterStep (State.reset.withFetchWord 24 0x564342)).map fun t => t.parse.point) = some .codebookTable ∧
    ((afterStep (State.reset.withFetchWord 16 1)).map fun t => t.errCode) = some 11 := by decide +kernel

/-! ## One vector or two for each instruction -/

/-- V20: [0xA8, 0x01], BIT_POS 6, n = 4 gives 6; [1, 2], BIT_POS 10, n = 7 is cut short. -/
theorem test_readBits :
    result .readBits { loaded [0xA8, 0x01] 6 0 with op0 := 4 } = some (6, 0, 10, 0x002) ∧
    failure .readBits { loaded [1, 2] 10 0 with op0 := 7 } = some (7, 10, 7, 0, 10) := by decide +kernel

/-- V3, V21. -/
theorem test_ilog :
    (after .ilog (started 7 0 0 0 0)).map State.res0 = some 3 ∧
    (after .ilog (started 0xFFFFFFFF 0 0 0 0)).map State.res0 = some 32 := by decide +kernel

/-- V4, V22: −1000000.0, and the tie at 1.5 · 2^−149. -/
theorem test_float32Unpack :
    (after .float32Unpack (started 0xE28F4240 0 0 0 0)).map State.res0 = some 0xC9742400 ∧
    (after .float32Unpack (started 0x4FC00003 0 0 0 0)).map State.res0 = some 2 := by decide +kernel

/-- V22: 2^128 is not finite, and the largest finite power of two. -/
theorem test_float32Unpack_overflow :
    failure .float32Unpack (started 0x72800001 0 0 0 0) = some (10, 1920991233, 0, 0, 0) ∧
    (after .float32Unpack (started 0x72600001 0 0 0 0)).map State.res0 = some 0x7F000000 := by decide +kernel

/-- V5, V23. -/
theorem test_lookup1Values :
    (after .lookup1Values (started 81 4 0 0 0)).map State.res0 = some 3 ∧
    (after .lookup1Values (started 0xFFFFFFFF 0xFFFFFFFF 0 0 0)).map State.res0 = some 1 := by decide +kernel

theorem test_lookup1Values_degenerate :
    failure .lookup1Values (started 1 0 0 0 0) = some (13, 1, 0, 0, 0) := by decide +kernel

/-- The vector of V24, and an index. -/
def vector (words : List Nat) (x : Word) : State :=
  { started x 0 0 0 0 with mem := wordsAt vecBase words, vecLen := Word.low words.length }

/-- V24: x = 7 in [0, 128, 12, 46, 4, 8, 46, 128], and the tie in [5, 9, 9, 7]. -/
theorem test_lowNeighbor :
    (after .lowNeighbor (vector [0, 128, 12, 46, 4, 8, 46, 128] 7)).map State.res0 = some 3 ∧
    failure .lowNeighbor (vector [5, 3, 3, 7] 2) = some (14, 2, 0, 0, 0) := by decide +kernel

theorem test_highNeighbor :
    (after .highNeighbor (vector [5, 9, 9, 7] 3)).map State.res0 = some 1 ∧
    failure .highNeighbor (vector [0, 128, 12, 46, 4, 8, 46, 128] 7) = some (14, 7, 1, 0, 0) := by decide +kernel

/-- V25: a falling line, and a result that is no i32. -/
theorem test_renderPoint :
    (after .renderPoint (started 0 0 3 (BitVec.ofInt 32 (-7)) 2)).map State.res0 = some 0xFFFFFFFC ∧
    failure .renderPoint (started 0 0 1 2147483647 2) = some (15, 5, 0, 0, 0) := by decide +kernel

/-- V26: (1,3)-(6,20) over eight elements that hold −1. -/
theorem test_renderLine :
    ((after .renderLine
      { started 1 3 6 20 0 with lineLen := 8, mem := wordsAt lineBase (List.replicate 8 0xFFFFFFFF) }).map
        fun t => (List.range 8).map t.lineElem) =
      some [0xFFFFFFFF, 3, 6, 9, 13, 16, 0xFFFFFFFF, 0xFFFFFFFF] := by decide +kernel

theorem test_renderLine_refuses :
    failure .renderLine { started 0 0 6 0 0 with lineLen := 5 } = some (15, 6, 0, 0, 0) := by decide +kernel

/-- R214. -/
theorem test_huffClear :
    ((after .huffClear { State.reset with huffWork := [.internal (some 1) none, .leaf 7] }).map State.huffCount) =
      some 1 := by decide +kernel

/-- The arena of V6 after its first two insertions, in R219's node order. -/
def arena : HuffTree :=
  [.internal (some 1) none, .internal (some 2) (some 3), .leaf 0, .internal (some 4) none, .internal (some 5) none,
   .leaf 1]

/-- V6: the third insertion, (4, 2), and the sixth node's capacity error of V27's kind. -/
theorem test_huffAddNode :
    ((after .huffAddNode { started 4 2 0 0 0 with huffWork := arena }).map fun t => (t.res0, t.res1, t.huffCount)) =
      some (6, 5, 7) ∧
    failure .huffAddNode { started 4 2 0 0 0 with
      huffWork := arena, params := { Params.default with huffCap := 6 } } = some (16, 7, 4, 0, 0) := by decide +kernel

/-- V27: [1, 1] leaves no room for a third length 1. -/
theorem test_huffAddNode_no_room :
    failure .huffAddNode { started 1 2 0 0 0 with
      huffWork := [.internal (some 1) (some 2), .leaf 0, .leaf 1] } = some (9, 2, 1, 0, 0) := by decide +kernel

/-- V1 and V2: RES0 = 110 and the lengths; V7: the corrupted lookup type. -/
theorem test_decodeCodebook :
    result .decodeCodebook (loaded v1 0 0) = some (110, 0, 110, 0x10A) ∧
    failure .decodeCodebook (loaded [66, 67, 86, 1, 0, 8, 0, 0, 0, 49, 76, 32, 197, 188] 0 0) =
      some (4, 15, 1, 0x0001, 110) := by decide +kernel

/-- V28(b): the ordered table. -/
theorem test_decodeCodebook_ordered :
    ((after .decodeCodebook (loaded [66, 67, 86, 1, 0, 4, 0, 0, 65, 18, 0] 0 0)).bind State.record) =
      some (.codebook ⟨1, 4, true, none, [some 1, some 2, some 3, some 3], 0, none,
        [.internal (some 1) (some 2), .leaf 0, .internal (some 3) (some 4), .leaf 1, .internal (some 5) (some 6),
         .leaf 2, .leaf 3]⟩) := by decide +kernel

/-- V29(a) and V29(f). -/
theorem test_decodeFloor :
    recordOf .decodeFloor (loaded [0, 0, 8, 68, 172, 0, 1, 6, 89, 12, 16, 0] 0 0) = some (.floor (.zero floor0)) ∧
    failure .decodeFloor (loaded [1, 0, 0] 0 0) = some (11, 0, 0, 0x0003, 21) := by decide +kernel

/-- V8: RES0 = 302 and STATUS 0x30A. -/
theorem test_decodeFloor_type1 :
    result .decodeFloor (loaded [1, 0, 6, 66, 70, 6, 20, 164, 3, 128, 1, 153, 16, 32, 48, 64, 48, 21, 0, 0, 12, 14, 58,
      134, 139, 128, 32, 123, 120, 218, 128, 96, 128, 255, 3, 65, 16, 4] 0 0) = some (302, 0, 302, 0x30A) := by
  decide +kernel

/-- V9. -/
theorem test_decodeTdt :
    result .decodeTdt (loaded [0, 0] 0 0) = some (16, 0, 16, 0x20A) ∧
    failure .decodeTdt (loaded [1, 2] 0 0) = some (2, 513, 1, 0x0002, 16) := by decide +kernel

/-- R342's corner case: five bytes are cut short at the mapping index. -/
theorem test_decodeMode :
    failure .decodeMode (loaded [0, 0, 0, 0, 0] 0 0) = some (7, 33, 8, 0x0006, 33) ∧
    result .decodeMode (loaded [1, 0, 0, 0, 6, 0] 0 0) = some (41, 0, 41, 0x60A) := by decide +kernel

/-- V30(a) and V30(b). -/
theorem test_decodeResidue :
    recordOf .decodeResidue (loaded [2, 0, 0, 0, 0, 0, 1, 0, 31, 0, 0, 65, 193, 96, 80, 88, 96, 0] 0 0) =
      some (.residue ⟨2, 0, 256, 32, 2, 5, [3, 8],
        [[some 10, some 11, none, none, none, none, none, none],
         [none, none, none, some 12, none, none, none, none]]⟩) ∧
    failure .decodeResidue (loaded [3, 0] 0 0) = some (4, 3, 3, 0x0004, 16) := by decide +kernel

/-- V31(a) and V31(e). -/
theorem test_decodeMapping :
    recordOf .decodeMapping (loaded [0, 0, 2, 8, 64, 128, 0] 0 2) =
      some (.mapping ⟨0, 1, 1, [0], [1], [0, 0], [⟨1, 2⟩]⟩) ∧
    failure .decodeMapping (loaded [0, 0, 2, 48] 0 3) = some (5, 0, 3, 0x0005, 30) := by decide +kernel

/-- V34: the minimal header, with `last` as its last bytes. -/
def minimal (last : List Nat) : List Nat := [0, 66, 67, 86, 1, 0, 2, 0, 0] ++ List.replicate 41 0 ++ last

/-- V34: its result, and a second codebook with a wrong sync. -/
theorem test_decodeSetup :
    result .decodeSetup (loaded (minimal [128]) 5 1) = some (408, 0, 408, 0x70A) ∧
    failure .decodeSetup (loaded [1, 66, 67, 86, 1, 0, 2, 0, 0, 0, 0, 67, 67, 86] 5 1) =
      some (1, 5653315, 0, 0x0101, 112) := by decide +kernel

/-- V34: one byte too many, and a framing bit of 0. -/
theorem test_decodeSetup_framing :
    failure .decodeSetup (loaded (minimal [128, 0]) 0 1) = some (8, 1, 1, 0x0007, 408) ∧
    failure .decodeSetup (loaded (minimal [0]) 0 1) = some (8, 0, 0, 0x0007, 408) := by decide +kernel

/-- The tags that select nothing, by the rules that follow their field (R231, R320, R324, R340). -/
theorem test_pass_tags :
    (after .codebookSync (atPoint .codebookSync v1)).map (fun t => (t.bitPos, t.parse.point)) =
      some (24, .codebookTable) ∧
    (after .mappingType0 (atPoint .mappingType [0, 0, 0])).map (fun t => (t.bitPos, t.parse.point)) =
      some (16, .mappingCoupling) ∧
    (after .mappingReserved (atPoint .mappingReserved [0])).map (fun t => (t.bitPos, t.parse.point)) =
      some (2, .mappingMux) ∧
    (after .modeWindowType0 (atPoint .modeWindow [0, 0])).map (fun t => (t.bitPos, t.parse.point)) =
      some (16, .modeTransform) ∧
    (after .modeTransformType0 (atPoint .modeTransform [0, 0])).map (fun t => (t.bitPos, t.parse.point)) =
      some (16, .modeMapping) := by decide +kernel

/-- V28(l) and V28(m) from their lookup_type field on: bit 86 and bit 76. -/
theorem test_lookup_tags :
    ((after .codebookLookupType1
      { loaded [66, 67, 86, 2, 0, 4, 0, 0, 132, 16, 66, 4, 0, 0, 138, 5, 0, 0, 134, 201, 10] 86 0 with
        parse := { ParseVars.none with book := ⟨2, 4, false, some false, []⟩ } }).map
        fun t => (t.bitPos, t.parse.vectorTable)) =
      some (165, some ⟨0x3F800000, 0x3B800000, 3, true, 2, [5, 2]⟩) ∧
    ((after .codebookLookupType2
      { loaded [66, 67, 86, 2, 0, 2, 0, 0, 0, 32, 0, 0, 0, 0, 1, 0, 128, 98, 160, 1] 76 0 with
        parse := { ParseVars.none with book := ⟨2, 2, false, some false, []⟩ } }).map
        fun t => (t.bitPos, t.parse.vectorTable)) =
      some (153, some ⟨0, 0x3F800000, 1, false, 4, [1, 0, 1, 1]⟩) ∧
    ((after .codebookLookupNone (loaded v1 106 0)).map fun t => (t.bitPos, t.parse.vectorTable, t.parse.point)) =
      some (110, none, .codebookTree) := by decide +kernel

/-- V29(a), V29(f), V30(a) and V9 from their tag on. -/
theorem test_record_tags :
    recordOf .floorType0 (atPoint .floorType [0, 0, 8, 68, 172, 0, 1, 6, 89, 12, 16, 0]) =
      some (.floor (.zero floor0)) ∧
    failure .floorType1 (atPoint .floorType [1, 0, 0]) = some (11, 0, 0, 0, 21) ∧
    result .residueType2 (atPoint .residueType
      [2, 0, 0, 0, 0, 0, 1, 0, 31, 0, 0, 65, 193, 96, 80, 88, 96, 0]) = some (139, 0, 139, 0x40A) ∧
    recordOf .tdtReserved (atPoint .tdtReserved [0, 0]) = some (.tdt ⟨0⟩) := by decide +kernel

/-- V30(c) with types 0 and 1: one classification, cascade 255. -/
theorem test_residue_types :
    (recordOf .residueType0 (atPoint .residueType ([0, 0] ++ List.replicate 20 0))).isSome = true ∧
    (recordOf .residueType1 (atPoint .residueType ([1, 0] ++ List.replicate 20 0))).isSome = true := by decide +kernel

/-- The framing bit of V34's minimal header and of its two failing neighbours. -/
theorem test_setupFraming :
    (recordOf .setupFraming (loaded (minimal [128]) 407 1)) = some (.setup SetupHeader.empty) ∧
    failure .setupFraming (loaded (minimal [128, 0]) 407 1) = some (8, 1, 1, 0, 408) := by decide +kernel

/-! ## The host interface -/

/-- V35: an unassigned opcode, and V36: soft reset keeps HOST_FAULT, and a misaligned read sets it. -/
theorem test_host :
    ((afterStep { State.reset with phase := .busy, cmd := 0xFF }).map fun t => (t.errCode, t.errInfo)) =
      some (17, 255) ∧
    ((afterStep { pending (.write 0x2C .word 1) with hostFault := true, cmd := 3 }).map
      fun t => (t.hostFault, t.cmd)) = some (true, 0) ∧
    ((afterStep (landing (.write 0x40 .word 5))).map fun t => (t.hostFault, t.op0)) = some (true, 0) ∧
    (afterStep (pending (.read 0x42 .word))).map State.hostFault = some true := by
  decide +kernel

/-- P1's first bus word, and its LOADB's last writes. -/
theorem test_script :
    (assemble 0 [.loadb (v1.map (BitVec.ofNat 8)), .cmd .decodeCodebook]).map Pending.event =
      [.write 0x10000000 .word 0x01564342, .write 0x10000004 .word 0x00000800, .write 0x10000008 .word 0x204C3100,
       .write 0x1000000C .word 0x000080C5, .write 0x1C .word 14, .write 0 .word 0x10] := by decide +kernel

/-! ## Witnesses: states and operands that meet the hypotheses of each statement, at the edges of their ranges -/

/-- The bytes of fields packed as R106 says. -/
def packed (fs : Fields) : List Nat :=
  let v := fs.foldr (fun f rest => f.2 + 2 ^ f.1 * rest) 0
  (List.range ((fs.bits + 7) / 8)).map fun k => v / 256 ^ k % 256

/-- The block BUSY with fields as its payload from bit 0 on. -/
def holding (fs : Fields) (channels : Nat) : State := loaded (packed fs) 0 channels

/-- A state whose payload holds the fields at BIT_POS and passes the start checks. -/
abbrev Holds (s : State) (fs : Fields) : Prop :=
  s.inLen.toNat ≤ s.params.inCap ∧ s.payload.holds s.bitPos.toNat fs = true

theorem witness_OpcodeMap (op : Byte) (h : op ∈ [0x00, 0x0B, 0x0F, 0x16, 0x1F, 0x21, 0xFF]) :
    op = 0x00 ∨ (0x0B ≤ op.toNat ∧ op.toNat ≤ 0x0F) ∨ (0x16 ≤ op.toNat ∧ op.toNat ≤ 0x1F) ∨ 0x21 ≤ op.toNat := by
  simp only [List.mem_cons, List.not_mem_nil, or_false] at h
  rcases h with rfl | rfl | rfl | rfl | rfl | rfl | rfl <;> decide

theorem witness_StepRunsDecodedInstruction :
    (let s := { started 7 0 0 0 0 with cmd := 0x02, bus := [⟨none, .read 0 .word⟩] }
     s.phase = .busy ∧ s.undisturbed ∧ s.parse.point = .none ∧ decodeOpcode s.cmd.toNat = .ok .ilog) ∧
    (let s := atPoint .codebookSync [66, 67, 86]
     s.phase = .busy ∧ s.undisturbed ∧ pointField s.parse.point = some .codebookSync ∧
     encode .codebookSync = (.codebookSync, 0x564342) ∧
     s.payload.holds s.bitPos.toNat [(Field.codebookSync.width, 0x564342)] = true) :=
  ⟨⟨rfl, (by intro e he; cases he; rfl), rfl, rfl⟩, rfl, (by intro e he; cases he), rfl, rfl, by decide +kernel⟩

theorem witness_StepMovesUnderPendingEvent :
    (let s := { started 7 0 0 0 0 with cmd := 0x02, bus := [⟨some 1, .read 0 .word⟩] }
     s.phase = .busy ∧ s.bus = [⟨some (0 + 1), .read 0 .word⟩] ∧ s.parse.point = .none ∧
     decodeOpcode s.cmd.toNat = .ok .ilog ∧ Instr.ilog ∉ decodeCommands) ∧
    (let s := { started 7 0 0 0 0 with cmd := 0x21, bus := [⟨some 1, .read 0 .word⟩] }
     s.phase = .busy ∧ s.bus = [⟨some (0 + 1), .read 0 .word⟩] ∧ s.parse.point = .none ∧
     ∀ i, decodeOpcode s.cmd.toNat ≠ .ok i) ∧
    (let s := { atPoint .setupFraming [1] with bus := [⟨some 1, .hardReset⟩] }
     s.phase = .busy ∧ s.bus = [⟨some (0 + 1), .hardReset⟩] ∧ pointField s.parse.point = some .setupFraming ∧
     encode .setupFraming = (.setupFraming, 1) ∧
     s.payload.holds s.bitPos.toNat [(Field.setupFraming.width, 1)] = true) :=
  ⟨⟨rfl, rfl, rfl, rfl, by decide⟩, ⟨rfl, rfl, rfl, by intro i h; cases h⟩, rfl, rfl, rfl, rfl, by decide +kernel⟩

/-- Every decode command under a pending event: its payload a byte too long, no channels, and entered. -/
theorem witness_StepEntersDecodeCommands :
    ∀ x ∈ [((0x10 : Byte), Instr.decodeCodebook), (0x11, .decodeFloor), (0x12, .decodeResidue), (0x13, .decodeMapping),
        (0x14, .decodeMode), (0x15, .decodeTdt), (0x20, .decodeSetup)],
      (decodeOpcode x.1.toNat).toOption = some x.2 ∧
      (let s := { loaded [0] 5 0 with cmd := x.1, inLen := 4097, bus := [⟨some 1, .hardReset⟩] }
       s.phase = .busy ∧ s.parse.point = .none ∧ s.params.inCap < s.inLen.toNat) ∧
      (let s := { loaded [0] 5 0 with cmd := x.1, bus := [⟨some 1, .hardReset⟩] }
       s.inLen.toNat ≤ s.params.inCap ∧ s.audioChannels = 0) ∧
      (let s := { loaded [0] 5 1 with cmd := x.1, bus := [⟨some 1, .hardReset⟩] }
       s.inLen.toNat ≤ s.params.inCap ∧ s.audioChannels ≠ 0 ∧
       (afterStep s).map (fun t => t.bitPos) = some (if x.2 = .decodeSetup then 0 else 5)) := by decide +kernel

theorem witness_HostEventLands :
    (pending .hardReset).bus = ⟨none, .hardReset⟩ :: [] ∧ (pending .hardReset).phase = .idle ∧
    (landing .hardReset).bus = ⟨some 0, .hardReset⟩ :: [] ∧ (landing .hardReset).phase = .busy ∧
    State.reset.bus = [] ∧ State.reset.phase = .idle := ⟨rfl, rfl, rfl, rfl, rfl, rfl⟩

theorem witness_UnassignedOpcodeRaises :
    let s := { started 0 0 0 0 0 with cmd := 0x0B }
    s.phase = .busy ∧ s.parse.point = .none ∧ s.undisturbed ∧ ∀ i, decodeOpcode s.cmd.toNat ≠ .ok i :=
  ⟨rfl, rfl, (by intro e he; cases he), by intro i h; cases h⟩

/-- One state for each field, its value the illegal one nearest to the legal ones, or the largest. -/
theorem witness_IllegalFieldValueRaises :
    ∀ x ∈ [(Point.codebookSync, Field.codebookSync, 0x564343), (.codebookLookup, .codebookLookup, 3),
        (.codebookLookup, .codebookLookup, 15), (.floorType, .floorType, 2), (.residueType, .residueType, 3),
        (.residueType, .residueType, 65535), (.mappingType, .mappingType, 1), (.mappingReserved, .mappingReserved, 3),
        (.modeWindow, .modeWindow, 1), (.modeTransform, .modeTransform, 65535), (.tdtReserved, .tdtReserved, 1),
        (.setupFraming, .setupFraming, 0)],
      let s := atPoint x.1 (packed [(x.2.1.width, x.2.2)])
      s.phase = .busy ∧ s.bus = [] ∧ pointField s.parse.point = some x.2.1 ∧
      s.payload.holds s.bitPos.toNat [(x.2.1.width, x.2.2)] = true := by decide +kernel

theorem witness_CommandWriteStarts :
    let s := pending (.write 0 .word 0xFFFFFF20)
    s.phase = .idle ∧ s.bus = ⟨none, .write s.params.base .word 0xFFFFFF20⟩ :: [] := ⟨rfl, rfl⟩

/-- Each start check just failing. -/
theorem witness_StartChecksRaise :
    (let s := { started 33 0 0 0 0 with inLen := 4097 }
     s.params.inCap < s.inLen.toNat ∧ 32 < s.op0.toNat) ∧
    (let s := { started 33 0 0 0 0 with inLen := 4096 }
     s.inLen.toNat ≤ s.params.inCap ∧ 32 < s.op0.toNat ∧ s.audioChannels = 0) ∧
    (let s := { started 1024 0 0 0 0 with vecLen := 1025 }
     s.params.vecCap < s.vecLen.toNat) ∧
    (let s := { started 1024 0 0 0 0 with vecLen := 1024 }
     s.vecLen.toNat ≤ s.params.vecCap ∧ s.vecLen.toNat ≤ s.op0.toNat) ∧
    (let s := { started 0 0 0 0 0 with lineLen := 1025 }
     s.params.lineCap < s.lineLen.toNat) ∧
    (let s := { started 0 0 5 0 0 with lineLen := 4 }
     s.lineLen.toNat ≤ s.params.lineCap ∧
     ¬ (0 ≤ s.op0.i32 ∧ s.op0.i32 < s.op2.i32 ∧ s.op2.i32 ≤ s.lineLen.toNat)) ∧
    (¬ (1 ≤ (started 0 0 0 0 0).op0.toNat ∧ (started 0 0 0 0 0).op0.toNat ≤ 32)) ∧
    (¬ (1 ≤ (started 33 0 0 0 0).op0.toNat ∧ (started 33 0 0 0 0).op0.toNat ≤ 32)) := by and_intros <;> decide +kernel

/-- A zero-width read beyond the payload, a read that ends with it, all 32 bits, and one bit too many. -/
theorem witness_ReadBitsReadsField :
    (let s := { loaded [1, 2] 17 0 with op0 := 0 }
     s.inLen.toNat ≤ s.params.inCap ∧ s.op0.toNat ≤ 32 ∧ s.op0 = 0) ∧
    (let s := { loaded [1, 2] 9 0 with op0 := 7 }
     s.inLen.toNat ≤ s.params.inCap ∧ s.op0.toNat ≤ 32 ∧ s.bitPos.toNat + s.op0.toNat ≤ 8 * s.inLen.toNat) ∧
    (let s := { loaded [1, 2, 3, 4] 0 0 with op0 := 32 }
     s.inLen.toNat ≤ s.params.inCap ∧ s.op0.toNat ≤ 32 ∧ s.bitPos.toNat + s.op0.toNat ≤ 8 * s.inLen.toNat) ∧
    (let s := { loaded [1, 2] 10 0 with op0 := 7 }
     s.inLen.toNat ≤ s.params.inCap ∧ s.op0.toNat ≤ 32 ∧ s.op0 ≠ 0 ∧
     8 * s.inLen.toNat < s.bitPos.toNat + s.op0.toNat) := by and_intros <;> decide +kernel

theorem witness_IlogIsBitLength : (started 0 0 0 0 0).op0 = 0 ∧ (started 1 0 0 0 0).op0 ≠ 0 := by and_intros <;> decide +kernel

/-- A zero mantissa, 2^128 exactly, the largest value below it, and the smallest non-zero operand. -/
theorem witness_Float32UnpackRoundsToNearestEven :
    (0x7FE00000 : Nat) % 2 ^ 21 = 0 ∧
    (2 ^ (128 + 788) ≤ 0x72800001 % 2 ^ 21 * 2 ^ (0x72800001 / 2 ^ 21 % 2 ^ 10) ∧ 0x72800001 % 2 ^ 21 ≠ 0) ∧
    (0x6FFFFFFF % 2 ^ 21 * 2 ^ (0x6FFFFFFF / 2 ^ 21 % 2 ^ 10) < 2 ^ (128 + 788) ∧ 0x6FFFFFFF % 2 ^ 21 ≠ 0) ∧
    (0x00000001 % 2 ^ 21 * 2 ^ (0x00000001 / 2 ^ 21 % 2 ^ 10) < 2 ^ (128 + 788) ∧ 0x00000001 % 2 ^ 21 ≠ 0) := by
  and_intros <;> decide +kernel

theorem witness_Lookup1ValuesIsIntegerRoot :
    (started 0 1 0 0 0).op1 ≠ 0 ∧ ((started 0 0 0 0 0).op1 = 0 ∧ (started 0 0 0 0 0).op0 = 0) ∧
    ((started 1 0 0 0 0).op1 = 0 ∧ (started 1 0 0 0 0).op0 ≠ 0) := by and_intros <;> decide +kernel

/-- A vector whose last element has both neighbors, one whose elements are all at least `v[x]`, and one whose elements
are all at most `v[x]`; x = 0 has none. -/
theorem witness_NeighborsAreClosestInValue :
    (let s := vector [5, 9, 7] 2
     s.vecLen.toNat ≤ s.params.vecCap ∧ s.op0.toNat < s.vecLen.toNat ∧ (∃ n < 2, s.vecElem n < s.vecElem 2) ∧
     ∃ n < 2, s.vecElem 2 < s.vecElem n) ∧
    (let s := vector [5, 9, 5] 2
     s.op0.toNat < s.vecLen.toNat ∧ ∀ n < 2, s.vecElem 2 ≤ s.vecElem n) ∧
    (let s := vector [5, 9, 9] 2
     s.op0.toNat < s.vecLen.toNat ∧ ∀ n < 2, s.vecElem n ≤ s.vecElem 2) ∧
    (let s := vector [5] 0
     s.op0.toNat < s.vecLen.toNat ∧ (∀ n < 0, s.vecElem 0 ≤ s.vecElem n) ∧ ∀ n < 0, s.vecElem n ≤ s.vecElem 0) := by
  and_intros <;> decide +kernel

/-- Equal ends, a result of 2^31 − 1, one of 2^31, and an x at each end. -/
theorem witness_RenderPointInterpolates :
    (started 2 7 2 9 2).op0.toInt = (started 2 7 2 9 2).op2.toInt ∧
    ((0 : Int) ≠ 1 ∧ (2147483647 * (1 - 0) : Int).tdiv (1 - 0) < 2 ^ 31) ∧
    ((0 : Int) ≠ 1 ∧ (2 : Int) ^ 31 ≤ (1073741824 * (2 - 0) : Int).tdiv (1 - 0)) ∧
    (min (4 : Int) 0 ≤ 0 ∧ (0 : Int) ≤ max 4 0 ∧ min (4 : Int) 0 ≤ 4 ∧ (4 : Int) ≤ max 4 0) := by and_intros <;> decide +kernel

/-- The shortest line, at the end of the buffer. -/
theorem witness_RenderLineDrawsRenderPoint :
    let s := { started 1023 5 1024 9 0 with lineLen := 1024 }
    s.lineLen.toNat ≤ s.params.lineCap ∧ 0 ≤ s.op0.toInt ∧ s.op0.toInt < s.op2.toInt ∧
    s.op2.toInt ≤ s.lineLen.toNat := by and_intros <;> decide +kernel

/-- A full tree has no free path; the empty tree's only least one of length 1 is `[false]`; and both capacity cases. -/
theorem witness_HuffAddNode_no_path :
    let t : HuffTree := [.internal (some 1) (some 2), .leaf 0, .leaf 1]
    HuffTree.wf t ∧ ∀ w : List Bool, w.length = 1 → ¬ FreePath t w := by
  refine ⟨by decide, fun w hw hf => ?_⟩
  match w, hw with
  | [false], _ => exact absurd hf.1 (by decide)
  | [true], _ => exact absurd hf.1 (by decide)

theorem witness_HuffAddNode_path :
    HuffTree.wf HuffTree.empty ∧ FreePath HuffTree.empty [false] ∧
    (∀ w : List Bool, w.length = 1 → FreePath HuffTree.empty w → codewordValue [false] ≤ codewordValue w) ∧
    HuffTree.empty.length + 1 ≤ State.reset.params.huffCap := by
  refine ⟨by decide, ⟨rfl, fun start n hp hw => ?_⟩, fun w _ _ => Nat.zero_le _, by decide⟩
  rcases List.prefix_cons_iff.mp hp with rfl | ⟨t, rfl, ht⟩
  · cases hw; rfl
  · rw [List.prefix_nil.mp ht] at hw
    cases hw

theorem witness_HuffAddNode_capacity :
    let s := { started 1 0 0 0 0 with params := { Params.default with huffCap := 1 } }
    s.huffWork = HuffTree.empty ∧ 1 ≤ s.op0.toNat ∧ s.op0.toNat ≤ 32 ∧ s.params.huffCap < HuffTree.empty.length + 1 := by
  and_intros <;> decide +kernel

theorem witness_DecodeTdtCases :
    Holds (holding [(16, 0)] 0) [(16, 0)] ∧ Holds (holding [(16, 1)] 0) [(16, 1)] ∧
    Holds (holding [(16, 65535)] 0) [(16, 65535)] ∧
    (let s := loaded [0] 0 0
     s.inLen.toNat ≤ s.params.inCap ∧ 8 * s.inLen.toNat < s.bitPos.toNat + 16) := by and_intros <;> decide +kernel

theorem witness_DecodeModeCases :
    mode.wf ∧ Holds (holding (modeFields mode) 0) (modeFields mode) ∧
    Holds (holding [(1, 0), (16, 1)] 0) [(1, 0), (16, 1)] ∧
    Holds (holding [(1, 1), (16, 0), (16, 65535)] 0) [(1, 1), (16, 0), (16, 65535)] := by and_intros <;> decide +kernel

theorem witness_DecodeFloorReadsGrammar :
    (floor0.wf ∧ Holds (holding (floorFields (.zero floor0)) 0) (floorFields (.zero floor0))) ∧
    (floor1.wf ∧ Holds (holding (floorFields (.one floor1)) 0) (floorFields (.one floor1))) := by and_intros <;> decide +kernel

theorem witness_DecodeFloorErrors :
    Holds (holding [(16, 2)] 0) [(16, 2)] ∧ Holds (holding [(16, 1), (5, 0)] 0) [(16, 1), (5, 0)] ∧
    (1 ≤ longFloor.partitions ∧ longFloor.partitionClassList.length = longFloor.partitions ∧
      longFloor.maximumClass = longFloor.partitionClassList.foldr max 0 ∧
      longFloor.classes.length = longFloor.maximumClass + 1 ∧ (∀ c ∈ longFloor.classes, c.wf) ∧
      1 ≤ longFloor.multiplier ∧
      longFloor.xList.length = 2 + (longFloor.partitionClassList.map (classDimensions longFloor.classes)).sum ∧
      longFloor.xList.length = 66) ∧
    Holds (holding (floor1Fields longFloor) 0) (floor1Fields longFloor) := by and_intros <;> decide +kernel

/-- The fields of `residue` without a high part, and of `mapping` with its submaps field. -/
def residueFields : Fields :=
  [(16, 0), (24, 0), (24, 16), (24, 7), (6, 0), (8, 3), (3, 2), (1, 0), (8, 5)]
def mappingFields : Fields :=
  [(16, 0), (1, 1), (4, 1), (1, 1), (8, 0), (1, 0), (1, 1), (2, 0), (4, 0), (4, 1), (8, 9), (8, 1), (8, 2), (8, 9), (8, 3),
   (8, 4)]

/-- A legal mono mapping without coupling. -/
def monoMapping : Mapping := ⟨0, 1, 0, [], [], [0], [⟨1, 2⟩]⟩

theorem witness_residueFields : ResidueFields residue residueFields := ⟨[false], by decide, by decide⟩

theorem witness_mappingFields : MappingFields mapping mappingFields :=
  ⟨true, [9, 9], by decide, by decide, by decide⟩

theorem witness_DecodeResidueReadsGrammar :
    residue.wf ∧ Holds (holding residueFields 0) residueFields ∧ Holds (holding [(16, 3)] 0) [(16, 3)] := by
  and_intros <;> decide +kernel

theorem witness_DecodeMappingReadsGrammar :
    mapping.wf ∧ mapping.mux.length = (holding mappingFields 2).audioChannels.toNat ∧
    (holding mappingFields 2).audioChannels ≠ 0 ∧ Holds (holding mappingFields 2) mappingFields := by and_intros <;> decide +kernel

/-- The mapping errors: V31(h); a second pair that is equal, one at the channel count and the mono pair, without and with
a submaps field; the reserved bits at both ends, after a submaps field and a coupling and after neither; the first and
the last mux value. -/
theorem witness_DecodeMappingErrors :
    Holds (holding [(16, 1)] 1) [(16, 1)] ∧
    (∀ x ∈ [(false, 1, 1, [(0, 1)], 1, 1, 2), (true, 16, 1, [(1, 0)], 1, 1, 2), (false, 1, 0, [], 0, 3, 3),
        (true, 2, 255, [], 0, 0, 1)],
      let (many, submaps, steps, good, m, a, ch) := x
      let fs : Fields := [(16, 0)] ++ submapsFields many submaps ++ [(1, 1), (8, steps)] ++
        (good ++ [(m, a)]).flatMap (fun (p : Nat × Nat) => [(ilog (ch - 1), p.1), (ilog (ch - 1), p.2)])
      good.length ≤ steps ∧ (∀ p ∈ good, p.1 ≠ p.2 ∧ p.1 < ch ∧ p.2 < ch) ∧ (m = a ∨ ch ≤ m ∨ ch ≤ a) ∧
      (holding fs ch).audioChannels.toNat = ch ∧ Holds (holding fs ch) fs) ∧
    (∀ x ∈ [(true, mapping, 2), (false, monoMapping, 1), (true, monoMapping, 1)],
      let (many, r, ch) := x
      r.wf ∧ r.mux.length = ch ∧ (many = false → r.submaps = 1) ∧
      ∀ v ∈ [1, 3],
        let fs := [(16, 0)] ++ submapsFields many r.submaps ++ couplingFields r ++ [(2, v)]
        (holding fs ch).audioChannels.toNat = ch ∧ Holds (holding fs ch) fs) ∧
    ∀ x ∈ [([], 2), ([1], 15)],
      let (good, v) := x
      let fs := [(16, 0)] ++ submapsFields true mapping.submaps ++ couplingFields mapping ++ [(2, 0)] ++
        (good ++ [v]).map (fun n => (4, n))
      2 ≤ mapping.submaps ∧ good.length < 2 ∧ (∀ n ∈ good, n < mapping.submaps) ∧ mapping.submaps ≤ v ∧
      Holds (holding fs 2) fs := by and_intros <;> decide +kernel

/-- The fields of `book`, of an ordered book with a zero run (V28(e)), and of one with a lookup table. -/
def bookFields : Fields :=
  [(24, 0x564342), (16, 1), (24, 1), (1, 0), (1, 0), (5, 0), (4, 0)]
def orderedBook : Codebook :=
  ⟨1, 2, true, none, [some 2, some 2], 0, none, [.internal (some 1) none, .internal (some 2) (some 3), .leaf 0, .leaf 1]⟩
def orderedFields : Fields :=
  [(24, 0x564342), (16, 1), (24, 2), (1, 1), (5, 0), (2, 0), (2, 2), (4, 0)]
def tableBook : Codebook :=
  ⟨1, 2, false, some true, [some 1, none], 2, some table, [.internal (some 1) none, .leaf 0]⟩
def tableFields : Fields :=
  [(24, 0x564342), (16, 1), (24, 2), (1, 0), (1, 1), (1, 1), (5, 0), (1, 0), (4, 2), (32, 0), (32, 0), (4, 0), (1, 0),
   (1, 0), (1, 1)]

theorem witness_bookFields : CodebookFields book bookFields :=
  ⟨[(1, 0), (5, 0)], [(4, 0)], ⟨rfl, by decide⟩, rfl, rfl⟩

theorem witness_orderedFields : CodebookFields orderedBook orderedFields :=
  ⟨[(5, 0), (2, 0), (2, 2)], [(4, 0)], ⟨1, [0, 2], by decide, by decide, by decide, by decide⟩, rfl, rfl⟩

theorem witness_tableFields : CodebookFields tableBook tableFields :=
  ⟨[(1, 1), (1, 1), (5, 0), (1, 0)], [(4, 2), (32, 0), (32, 0), (4, 0), (1, 0), (1, 0), (1, 1)],
   ⟨rfl, by decide⟩, ⟨_, ⟨0, 0, by decide, by decide, rfl⟩, rfl⟩, rfl⟩

theorem witness_books_fit (c : Codebook) (h : c = book ∨ c = orderedBook ∨ c = tableBook) :
    CodebookFits Params.default c := by
  refine ⟨⟨rfl, fun _ _ => rfl⟩, fun k => ?_⟩
  rcases h with rfl | rfl | rfl <;> rfl

theorem witness_DecodeCodebookReadsGrammar :
    book.wf ∧ Holds (holding bookFields 0) bookFields ∧ orderedBook.wf ∧ Holds (holding orderedFields 0) orderedFields ∧
    tableBook.wf ∧ Holds (holding tableFields 0) tableFields := by and_intros <;> decide +kernel

/-- A codebook head of 1 dimension and `entries` entries. -/
def bookHead (entries : Nat) : Fields := [(24, 0x564342), (16, 1), (24, entries)]

/-- The codebook errors of the head: V7's sync, an entry count over a capacity of 1, an overrun by one after a run, and the
33rd length. -/
theorem witness_DecodeCodebookErrors_head :
    Holds (holding [(24, 0x030201)] 0) [(24, 0x030201)] ∧
    (let s := { holding (bookHead 2) 0 with params := { Params.default with entryCap := some 1 } }
     overCap 2 s.params.entryCap = true ∧ Holds s (bookHead 2)) ∧
    (let fs := bookHead 5 ++ [(1, 1), (5, 1 - 1)] ++ runFields 5 0 ([1] ++ [5])
     ([1] : List Nat).sum < 5 ∧ 5 < ([1] : List Nat).sum + 5 ∧ 1 + ([1] : List Nat).length ≤ 32 ∧
     Holds (holding fs 0) fs) ∧
    (let fs := bookHead 1 ++ [(1, 1), (5, 32 - 1)] ++ runFields 1 0 [0]
     32 + ([0] : List Nat).length = 33 ∧ ([0] : List Nat).sum < 1 ∧ Holds (holding fs 0) fs) := by
  and_intros <;> decide +kernel

/-- A dense, an ordered and a sparse length table, for lookup errors after each; the dense one also without dimensions. -/
def tables : List (Codebook × Fields) :=
  [(book, [(1, 0), (5, 0)]), ({ book with dimensions := 0 }, [(1, 0), (5, 0)]),
   (orderedBook, [(5, 0), (2, 0), (2, 2)]), (tableBook, [(1, 1), (1, 1), (5, 0), (1, 0)])]

theorem witness_tables (c : Codebook) (fs : Fields) (h : (c, fs) ∈ tables) : c.wf ∧ TableFields c fs := by
  simp only [tables, List.mem_cons, List.not_mem_nil, or_false, Prod.mk.injEq] at h
  rcases h with ⟨rfl, rfl⟩ | ⟨rfl, rfl⟩ | ⟨rfl, rfl⟩ | ⟨rfl, rfl⟩
  · exact ⟨by decide, rfl, by decide⟩
  · exact ⟨by decide, rfl, by decide⟩
  · exact ⟨by decide, 1, [0, 2], by decide, by decide, by decide, by decide⟩
  · exact ⟨by decide, rfl, by decide⟩

/-- The codebook errors of the lookup, after each table: both ends of the reserved types, a minimum and a delta of 2^128,
no dimensions, and a count of 2 over a capacity of 1 for each lookup type. -/
theorem witness_DecodeCodebookErrors_lookup :
    (∀ x ∈ tables, ∀ rest ∈ [[(4, 3)], [(4, 15)], [(4, 1), (32, 0x72800001)], [(4, 2), (32, 0), (32, 0x72800001)],
        [(4, 1), (32, 0), (32, 0), (4, 15), (1, 1)], [(4, 2), (32, 0), (32, 0), (4, 0), (1, 0)]],
      let fs := codebookHeadFields x.1 x.2 ++ rest
      Holds (holding fs 0) fs ∧ overCap x.1.entries (holding fs 0).params.entryCap = false) ∧
    float32Unpack (Word.low 0x72800001) = none ∧ float32Unpack (Word.low 0) ≠ none ∧
    ({ book with dimensions := 0 }).entries ≠ 0 ∧
    ∀ lookupType ∈ [1, 2],
      table.countOk lookupType tableBook.entries tableBook.dimensions ∧ overCap table.lookupValues (some 1) = true := by
  and_intros <;> decide +kernel

/-- V28(h): the third length 1, in a dense book of three entries; and its second, over a NODE_CAP of 2, behind an unused
entry and before a lookup table. -/
def fullBook : Codebook := ⟨1, 3, false, some false, [some 1, some 1, some 1], 0, none, HuffTree.empty⟩
def fullFields : Fields := [(24, 0x564342), (16, 1), (24, 3), (1, 0), (1, 0), (5, 0), (5, 0), (5, 0), (4, 0)]
def cappedBook : Codebook := { tableBook with entries := 2, codewordLengths := [none, some 2] }
def cappedFields : Fields :=
  [(24, 0x564342), (16, 1), (24, 2), (1, 0), (1, 1), (1, 0), (1, 1), (5, 1), (4, 2), (32, 0), (32, 0), (4, 0), (1, 0),
   (1, 0), (1, 1)]

theorem witness_DecodeCodebookHuffmanRaisesLast_room :
    fullBook.wf ∧ CodebookCountsFit Params.default fullBook ∧ CodebookFields fullBook fullFields ∧
    Holds (holding fullFields 0) fullFields ∧ fullBook.codewordLengths = [some 1, some 1] ++ some 1 :: [] ∧
    ∀ k, buildTree none 0 [some 1, some 1] HuffTree.empty k =
      .ok [.internal (some 1) (some 2), .leaf 0, .leaf 1] k :=
  ⟨by decide, ⟨rfl, fun _ _ => rfl⟩, ⟨[(1, 0), (5, 0), (5, 0), (5, 0)], [(4, 0)], ⟨rfl, by decide⟩, rfl, rfl⟩,
   by decide +kernel, rfl, fun _ => rfl⟩

theorem witness_DecodeCodebookHuffmanRaisesLast_capacity :
    (let s := { holding cappedFields 0 with params := { Params.default with nodeCap := some 2 } }
     cappedBook.wf ∧ CodebookCountsFit s.params cappedBook ∧ CodebookFields cappedBook cappedFields ∧
     Holds s cappedFields ∧ cappedBook.codewordLengths = [none] ++ some 2 :: [] ∧
     (∀ k, buildTree s.params.nodeCap 0 [none] HuffTree.empty k = .ok HuffTree.empty k) ∧
     overCap (HuffTree.empty.length + (2 - 0)) s.params.nodeCap = true) ∧
    (∀ w : List Bool, w.length = 2 → FreePath HuffTree.empty w → codewordValue [false, false] ≤ codewordValue w) ∧
    walk HuffTree.empty 0 ([false, false].take 0) ≠ none ∧ walk HuffTree.empty 0 ([false, false].take 1) = none :=
  ⟨⟨by decide, ⟨rfl, fun _ _ => rfl⟩,
    ⟨[(1, 1), (1, 0), (1, 1), (5, 1)], [(4, 2), (32, 0), (32, 0), (4, 0), (1, 0), (1, 0), (1, 1)], ⟨rfl, by decide⟩,
     ⟨_, ⟨0, 0, by decide, by decide, rfl⟩, rfl⟩, rfl⟩,
    by decide +kernel, rfl, fun _ => rfl, by decide⟩,
   fun w _ _ => Nat.zero_le _, by decide, rfl⟩

theorem witness_DecodeCodebookHuffmanRaisesLast_path : FreePath HuffTree.empty [false, false] := by
  refine ⟨rfl, fun start n hp hw => ?_⟩
  rcases List.prefix_cons_iff.mp hp with rfl | ⟨t, rfl, -⟩
  · cases hw; rfl
  · cases t <;> cases hw

/-- Each record cut at its first field or at a later one, the last bit short. -/
theorem witness_CutRecordEndsPrematurely :
    (let s := loaded [0, 0, 8, 68, 172, 0, 1, 6, 89, 12, 16] 0 0
     floorFields (.zero floor0) = (floorFields (.zero floor0)).take 8 ++ (8, 4) :: [] ∧
     Holds s ((floorFields (.zero floor0)).take 8) ∧
     8 * s.inLen.toNat < s.bitPos.toNat + Fields.bits ((floorFields (.zero floor0)).take 8) + 8) ∧
    (let s := loaded [] 0 0
     residueFields = [] ++ (16, 0) :: residueFields.drop 1 ∧ Holds s [] ∧ 8 * s.inLen.toNat < s.bitPos.toNat + 0 + 16) ∧
    (let s := loaded [0, 0, 0, 0, 0] 0 0
     modeFields ⟨false, 0, 0, 3⟩ = [(1, 0), (16, 0), (16, 0)] ++ (8, 3) :: [] ∧ Holds s [(1, 0), (16, 0), (16, 0)] ∧
     8 * s.inLen.toNat < s.bitPos.toNat + 33 + 8) ∧
    (let s := loaded [0, 0] 1 0
     tdtFields = [] ++ (16, 0) :: [] ∧ Holds s [] ∧ 8 * s.inLen.toNat < s.bitPos.toNat + 0 + 16) ∧
    (∀ x ∈ [(bookFields, 0, 6), (orderedFields, 0, 6), (tableFields, 0, 11), (fullFields, 0, 0), (mappingFields, 2, 4),
        (mappingFields, 2, 9), (mappingFields, 2, 15)],
      let (fs, ch, k) := x
      let before := fs.take k
      let field := fs.getD k (0, 0)
      let s := { holding fs ch with inLen := Word.low ((Fields.bits before + field.1 - 1) / 8) }
      fs = before ++ field :: fs.drop (k + 1) ∧ field.1 ≠ 0 ∧ Holds s before ∧
      8 * s.inLen.toNat < s.bitPos.toNat + Fields.bits before + field.1) := by and_intros <;> decide +kernel

/-- A state whose decode commands accept a record, its record store emptied by their start. -/
theorem witness_accepted_records :
    (after .decodeCodebook (holding bookFields 0)).bind State.record = some (.codebook book) ∧
    (after .decodeFloor (holding (floor1Fields floor1) 0)).bind State.record = some (.floor (.one floor1)) ∧
    (after .decodeResidue (holding residueFields 0)).bind State.record = some (.residue residue) ∧
    (after .decodeMapping (holding mappingFields 2)).bind State.record = some (.mapping mapping) ∧
    ((after .decodeSetup (loaded (minimal [128]) 0 1)).bind State.record).isSome = true ∧
    (holding bookFields 0).record = none := by and_intros <;> decide +kernel

/-- A header's body up to its framing bit. -/
def headerBody : Fields :=
  listFields 8 [bookFields] ++ listFields 6 [tdtFields] ++ listFields 6 [floorFields (.zero floor0)] ++
    listFields 6 [residueFields] ++ listFields 6 [mappingFields] ++ listFields 6 [modeFields mode]

/-- The header's six lists, from the fields of its one codebook. -/
def headerLists (codebook : Fields) : List (Stage × Nat × List Fields) :=
  [(.codebook, 8, [codebook]), (.tdt, 6, [tdtFields]), (.floor, 6, [floorFields (.zero floor0)]),
   (.residue, 6, [residueFields]), (.mapping, 6, [mappingFields]), (.mode, 6, [modeFields mode])]

theorem witness_headerLists (c : Codebook) (fs : Fields) (h : CodebookFields c fs) :
    SetupLists { header with codebooks := [c] } (headerLists fs) :=
  ⟨[fs], [residueFields], [mappingFields], ⟨h, trivial⟩, ⟨witness_residueFields, trivial⟩,
   ⟨witness_mappingFields, trivial⟩, rfl⟩

theorem witness_headerFields : SetupFields header (headerBody ++ [(1, 1)]) :=
  ⟨headerLists bookFields, witness_headerLists book bookFields witness_bookFields, by decide +kernel⟩

theorem witness_header_parts :
    (∀ c ∈ header.codebooks, CodebookFits Params.default c) ∧
    ∀ m ∈ header.mappings, m.mux.length = (holding headerBody 2).audioChannels.toNat :=
  ⟨fun c hc => witness_books_fit c (.inl (List.mem_singleton.mp hc)), by decide +kernel⟩

/-- The header whole, with framing bit 0, with a byte too many, and with its framing bit cut off. -/
theorem witness_DecodeSetup :
    (let s := holding (headerBody ++ [(1, 1)]) 2
     s.inLen.toNat ≤ s.params.inCap ∧ s.audioChannels ≠ 0 ∧ s.payload.holds 0 (headerBody ++ [(1, 1)]) = true ∧
     8 * s.inLen.toNat < Fields.bits (headerBody ++ [(1, 1)]) + 8) ∧
    (let s := holding (headerBody ++ [(1, 0)]) 2
     s.inLen.toNat ≤ s.params.inCap ∧ s.payload.holds 0 (headerBody ++ [(1, 0)]) = true) ∧
    (let s := holding (headerBody ++ [(1, 1), (8, 0)]) 2
     s.inLen.toNat ≤ s.params.inCap ∧ s.payload.holds 0 (headerBody ++ [(1, 1)]) = true ∧
     Fields.bits (headerBody ++ [(1, 1)]) + 8 ≤ 8 * s.inLen.toNat) ∧
    (let s := holding headerBody 2
     s.inLen.toNat ≤ s.params.inCap ∧ s.payload.holds 0 headerBody = true ∧
     8 * s.inLen.toNat ≤ Fields.bits headerBody) := by and_intros <;> decide +kernel

/-- The record commands in the order of a header's lists, and a header whose every count field holds a byte boundary. -/
def recordInstrs : List Instr :=
  [.decodeCodebook, .decodeTdt, .decodeFloor, .decodeResidue, .decodeMapping, .decodeMode]
def cutHeader : SetupHeader := { header with codebooks := [orderedBook] }

theorem witness_cutHeader :
    cutHeader.wf ∧ (∀ c ∈ cutHeader.codebooks, CodebookFits Params.default c) ∧
    (∀ m ∈ cutHeader.mappings, m.mux.length = (holding [] 2).audioChannels.toNat) ∧
    SetupLists cutHeader (headerLists orderedFields) ∧
    ∀ k ∈ [0, 1, 2, 3, 4, 5],
      let lists := headerLists orderedFields
      lists = lists.take k ++ lists.getD k (.codebook, 0, []) :: lists.drop (k + 1) := by
  refine ⟨⟨⟨by decide, fun c hc => ?_⟩, test_wf_header.2⟩, fun c hc => ?_, by decide +kernel,
    witness_headerLists orderedBook orderedFields witness_orderedFields, fun k hk => ?_⟩
  · rw [List.mem_singleton.mp hc]
    exact witness_DecodeCodebookReadsGrammar.2.2.1
  · exact witness_books_fit c (.inr (.inl (List.mem_singleton.mp hc)))
  · simp only [List.mem_cons, List.not_mem_nil, or_false] at hk
    rcases hk with rfl | rfl | rfl | rfl | rfl | rfl <;> rfl

/-- Each of the six lists, its header cut inside its count field. -/
theorem witness_SetupPropagatesFirstError_count :
    ∀ k ∈ [0, 1, 2, 3, 4, 5],
      let lists := headerLists orderedFields
      let l := lists.getD k (.codebook, 0, [])
      let start := Fields.bits (listsFields (lists.take k))
      let s := { holding (listsFields lists) 2 with inLen := Word.low ((start + l.2.1 - 1) / 8) }
      s.params.wf ∧ s.inLen.toNat ≤ s.params.inCap ∧ s.audioChannels ≠ (0 : Byte) ∧ s.err = false ∧
      s.payload.holds 0 (listsFields (lists.take k)) = true ∧ 8 * s.inLen.toNat < start + l.2.1 := by decide +kernel

/-- Each of the six lists under a count of two: its first record, and the record after its one legal record, cut off at the
first bit. -/
theorem witness_SetupPropagatesFirstError_record :
    ∀ k ∈ [0, 1, 2, 3, 4, 5], ∀ n ∈ [0, 1],
      let lists := headerLists orderedFields
      let l := lists.getD k (.codebook, 0, [])
      let fs := listsFields (lists.take k) ++ (l.2.1, 1) :: (l.2.2.take n).flatten
      let s := holding fs 2
      s.params.wf ∧ s.inLen.toNat ≤ s.params.inCap ∧ s.audioChannels ≠ (0 : Byte) ∧ s.err = false ∧
      s.payload.holds 0 fs = true ∧
      (after (recordInstrs.getD k .ilog) { s with bitPos := Word.low (Fields.bits fs) }).map State.err = some true := by
  decide +kernel

theorem witness_PassTagsConsumeTheirField :
    ∀ x ∈ [(24, 0x564342), (16, 0), (2, 0)], Holds (holding [x] 0) [x] := by decide +kernel

/-- The table of two entries, inside a codebook of two entries of one dimension. -/
def vectorFields (lookupType : Nat) : Fields :=
  (4, lookupType) :: [(32, 0), (32, 0), (4, 0), (1, 0), (1, 0), (1, 1)]

theorem witness_LookupTagsReadTheirTable :
    Holds (holding [(4, 0)] 0) [(4, 0)] ∧ table.wf ∧
    VectorFields table [(32, 0), (32, 0), (4, 0), (1, 0), (1, 0), (1, 1)] ∧
    ∀ lookupType ∈ [1, 2],
      let s := { holding (vectorFields lookupType) 0 with
        parse := { ParseVars.none with book := ⟨1, 2, false, some false, []⟩ } }
      Holds s (vectorFields lookupType) ∧ table.countOk lookupType s.parse.book.entries s.parse.book.dimensions ∧
      s.parse.book.entries < 2 ^ 24 ∧ s.parse.book.dimensions < 2 ^ 16 ∧
      overCap table.lookupValues s.params.multCap = false :=
  ⟨by decide +kernel, by decide, ⟨0, 0, by decide, by decide, rfl⟩, by decide +kernel⟩

/-- Each record tag in its own command, with a record still to come in its list, and as its list's last record; that the
records are legal is in the witnesses of the record commands. -/
theorem witness_RecordTagsReadTheirRecord :
    ∀ x ∈ [(floor0Fields floor0, Stage.floor), (floor1Fields floor1, .floor), (residueFields, .residue),
        (tdtFields, .tdt)],
      (let s := holding x.1 0
       Holds s x.1 ∧ s.parse.inSetup = false) ∧
      ∀ left ∈ [2, 1, 0],
        let s := { holding x.1 0 with parse := { ParseVars.none with inSetup := true, stage := x.2, left := left } }
        Holds s x.1 ∧ s.parse.inSetup = true ∧ s.parse.stage = x.2 ∧ s.parse.left = left := by decide +kernel

theorem witness_FramingTagEndsSetup :
    (let s := loaded [1] 0 1
     Holds s [(1, 1)] ∧ s.inLen.toNat - (s.bitPos.toNat + 1 + 7) / 8 = 0) ∧
    (let s := loaded [128, 0, 0] 7 1
     Holds s [(1, 1)] ∧ s.inLen.toNat - (s.bitPos.toNat + 1 + 7) / 8 = 2) := by and_intros <;> decide +kernel

theorem witness_FieldByField :
    (∀ x ∈ [((0x11 : Byte), floorFields (.one floor1)), (0x12, residueFields), (0x13, mappingFields),
        (0x14, modeFields mode), (0x15, tdtFields), (0x10, orderedFields), (0x20, headerBody ++ [(1, 1)])],
      let s := { holding x.2 2 with cmd := x.1 }
      s.params.wf ∧ s.phase = .busy ∧ s.parse = ParseVars.none) ∧
    decodeOpcode (0x11 : Byte).toNat = .ok .decodeFloor ∧ decodeOpcode (0x12 : Byte).toNat = .ok .decodeResidue ∧
    decodeOpcode (0x13 : Byte).toNat = .ok .decodeMapping ∧ decodeOpcode (0x14 : Byte).toNat = .ok .decodeMode ∧
    decodeOpcode (0x15 : Byte).toNat = .ok .decodeTdt ∧ decodeOpcode (0x10 : Byte).toNat = .ok .decodeCodebook ∧
    decodeOpcode (0x20 : Byte).toNat = .ok .decodeSetup :=
  ⟨by decide +kernel, rfl, rfl, rfl, rfl, rfl, rfl, rfl⟩

/-- Instructions that end in a next state, with and without an error, and a change of memory that no instruction sees:
the byte after the payload and the element after the vector. -/
theorem witness_frames :
    (after .ilog (started 7 0 0 0 0)).map State.err = some false ∧
    (let s := { loaded [] 0 0 with op0 := 1 }
     s.err = false ∧ (after .readBits s).map State.err = some true) ∧
    (let s := loaded [1, 2] 0 0
     s.err = false ∧ (after .decodeTdt s).map State.err = some true) ∧
    (let s := loaded [1] 0 0
     ∀ k < s.inLen.toNat, ({ s with mem := bytesAt inBase [1, 2] }).byteAt (inBase + k) = s.byteAt (inBase + k)) ∧
    (let s := vector [5, 9] 1
     ∀ k < s.vecLen.toNat, ({ s with mem := wordsAt vecBase [5, 9, 7] }).vecElem k = s.vecElem k) := by
  and_intros <;> decide +kernel

/-- A write and a read at each end of the register map: the premises hold, and the clause is true there. -/
theorem witness_IdleRegisterAccess :
    ∀ x ∈ [(0x18, { State.reset with bitPos := 5 }), (0x50, { State.reset with op4 := 5 }), (0x04, State.reset),
        (0x64, State.reset)],
      (let s := pending (.write x.1 .word 5)
       s.phase = .idle ∧ s.bus = [⟨none, .write (s.params.base + x.1) .word 5⟩] ∧ afterStep s = some x.2) ∧
      (let s := { pending (.read x.1 .word) with res1 := 9, bitPos := 8, op4 := 7 }
       s.phase = .idle ∧ s.bus = [⟨none, .read (s.params.base + x.1) .word⟩] ∧ (afterStep s).isSome = true) := by
  decide +kernel

theorem witness_StatusReadsItsFields :
    (pending (.read 4 .word)).phase = .idle ∧
    (pending (.read 4 .word)).bus = ⟨none, .read ((pending (.read 4 .word)).params.base + 4) .word⟩ :: [] ∧
    (landing (.read 4 .word)).phase = .busy ∧
    (landing (.read 4 .word)).bus = ⟨some 0, .read ((landing (.read 4 .word)).params.base + 4) .word⟩ :: [] ∧
    (afterStep { pending (.read 4 .word) with done := true, hostFault := true, record := some (.tdt ⟨0⟩) }).map
      State.readData = some 0x21A := by and_intros <;> decide +kernel

/-- The first and the last word of each window. -/
theorem witness_WindowWordWriteAndRead :
    State.reset.params.wf ∧ State.reset.phase = .idle ∧
    (∀ k ∈ [0, 1023], 4 * k + 3 < State.reset.params.inCap ∧ k < State.reset.params.vecCap ∧
      k < State.reset.params.lineCap) ∧
    ∀ offset ∈ [0x10000000, 0x10000FFC, 0x1000, 0x1FFC, 0x10000, 0x10FFC],
      let s := { State.reset with
        bus := [⟨none, .write offset .word 0x04030201⟩, ⟨none, .read offset .word⟩] }
      ((afterStep s).bind afterStep).map State.readData = some 0x04030201 := by
  and_intros <;> decide +kernel

/-- Both ends of every hole, and of the two read-only windows. -/
theorem witness_HolesReadZeroAndIgnoreWrites :
    let p := State.reset.params
    (∀ offset ∈ [0x34, 0x5C, 0x68, 0xFFC, 0x2000, 0xFFFC, 0x11000, 0xFFFFC, 0x200000, 0xFFFFFC, 0x2000000, 0xFFFFFFC,
        0x10001000, 0xFFFFFFFC],
      (offset ∈ [0x34, 0x38, 0x3C, 0x54, 0x58, 0x5C] ∨ (0x68 ≤ offset ∧ offset < 0x1000) ∨
        (0x1000 + 4 * p.vecCap ≤ offset ∧ offset < 0x10000) ∨ (0x10000 + 4 * p.lineCap ≤ offset ∧ offset < 0x100000) ∨
        (0x100000 + 16 * p.huffCap ≤ offset ∧ offset < 0x1000000) ∨ (0x2000000 ≤ offset ∧ offset < 0x10000000) ∨
        0x10000000 + p.inCap ≤ offset) ∧
      offset % 4 = 0 ∧ offset < 2 ^ 32 ∧
      (afterStep { pending (.read offset .word) with readData := 9 }) = some State.reset) ∧
    ∀ offset ∈ [0x34, 0xFFFFFFFC, 0x100000, 0xFFFFFC, 0x1000000, 0x1FFFFFC],
      afterStep (pending (.write offset .word 9)) = some State.reset := by
  and_intros <;> decide +kernel

/-- A leaf's symbol, an internal node's right child, and a node beyond HUFF_COUNT. -/
theorem witness_HuffWindowReads :
    (let s := { pending (.read 0x10002C .word) with huffWork := arena }
     s.phase = .idle ∧ s.params.wf ∧ 2 < s.params.huffCap ∧
     s.bus = [⟨none, .read (s.params.base + (0x100000 + 16 * 2 + 4 * 3)) .word⟩] ∧ ¬ s.huffWork.length ≤ 2 ∧
     (∀ x, s.huffWork[2]? = some (.leaf x) → [(1 : Word), 0xFFFFFFFF, 0xFFFFFFFF, x][3]? = some 0) ∧
     ∀ l r, s.huffWork[2]? ≠ some (.internal l r)) ∧
    (let s := { pending (.read 0x100018 .word) with huffWork := arena }
     (afterStep s).map State.readData = some 3) ∧
    (let s := { pending (.read 0x1FFFF0 .word) with huffWork := arena }
     65535 < s.params.huffCap ∧ s.huffWork.length ≤ 65535 ∧ (afterStep s).map State.readData = some 0) ∧
    (let s := pending (.read 0x1FFFFFC .word)
     s.record = none ∧ s.bus = [⟨none, .read (s.params.base + (0x1000000 + 4 * 0x3FFFFF)) .word⟩]) := by
  refine ⟨⟨rfl, by decide, by decide, rfl, by decide, ?_, ?_⟩, by decide +kernel, ?_, rfl, rfl⟩
  · intro x h
    cases h
    rfl
  · intro l r h
    cases h
  · and_intros <;> decide +kernel

theorem witness_BusyAccessesAreRefused :
    (let s := landing (.write 0xFFFFFFFC .byte 5)
     s.phase = .busy ∧ s.bus = ⟨some 0, .write (s.params.base + 0xFFFFFFFC) .byte 5⟩ :: [] ∧
     (afterStep s).map State.hostFault = some true) ∧
    (let s := landing (.read 0x60 .word)
     s.phase = .busy ∧ s.bus = ⟨some 0, .read (s.params.base + 0x60) .word⟩ :: [] ∧
     (afterStep s).map State.hostFault = some false) := by and_intros <;> decide +kernel

theorem witness_MalformedAccesses :
    (let s := pending (.write 0x40 .byte 5)
     s.phase = .idle ∧ s.bus = ⟨none, .write (s.params.base + 0x40) .byte 5⟩ :: []) ∧
    (let s := landing (.read 0x2E .word)
     s.phase = .busy ∧ s.bus = ⟨some 0, .read (s.params.base + 0x2E) .word⟩ :: [] ∧ 0x2E % 4 ≠ 0 ∧
     (afterStep s).map State.hostFault = some true) := by
  and_intros <;> decide +kernel

/-- From an IDLE engine, with bit 0 set and clear, and out of a RENDER_LINE whose operands are legal. -/
theorem witness_SoftResetState :
    (let s := pending (.write 0x2C .word 1)
     s.phase = .idle ∧ s.bus = ⟨none, .write (s.params.base + 0x2C) .word 1⟩ :: []) ∧
    (let s := { pending (.write 0x2C .word 0xFFFFFFFE) with op0 := 5 }
     (0xFFFFFFFE : Word).getLsbD 0 = false ∧ (afterStep s).map State.op0 = some 5) ∧
    (let s := { started 0 0 3 9 0 with cmd := 8, lineLen := 3, bus := [⟨some 0, .write 0x2C .word 0xFFFFFFFF⟩] }
     s.phase = .busy ∧ (0xFFFFFFFF : Word).getLsbD 0 = true ∧
     s.bus = ⟨some 0, .write (s.params.base + 0x2C) .word 0xFFFFFFFF⟩ :: [] ∧ s.cmd = 0x08 ∧
     s.lineLen.toNat ≤ s.params.lineCap ∧ 0 ≤ s.op0.toInt ∧ s.op0.toInt < s.op2.toInt ∧
     s.op2.toInt ≤ s.lineLen.toNat) := by and_intros <;> decide +kernel

/-- A hardware reset that lands in each phase. -/
theorem witness_HardResetGivesResetColumn :
    (pending .hardReset).phase = .idle ∧ (pending .hardReset).bus = ⟨none, .hardReset⟩ :: [] ∧
    (landing .hardReset).phase = .busy ∧ (landing .hardReset).bus = ⟨some 0, .hardReset⟩ :: [] :=
  ⟨rfl, rfl, rfl, rfl⟩

/-- A pending soft reset, and a hardware reset that does not land yet. -/
theorem witness_HostFaultIsSticky :
    (let s := { pending (.write 0x2C .word 1) with hostFault := true }
     s.hostFault = true ∧ (afterStep s).isSome = true ∧
     ∀ e ∈ s.bus.head?, e.event = .hardReset → s.phase = .busy ∧ e.wait ≠ some 0) ∧
    (let s := { started 7 0 0 0 0 with cmd := 0x02, hostFault := true, bus := [⟨some 3, .hardReset⟩] }
     s.hostFault = true ∧ (afterStep s).isSome = true ∧
     ∀ e ∈ s.bus.head?, e.event = .hardReset → s.phase = .busy ∧ e.wait ≠ some 0) := by and_intros <;> decide +kernel

/-- A started command meets both invariants and steps. -/
theorem witness_invariants :
    let s := { loaded v1 0 0 with cmd := 0x10 }
    s.Inv ∧ s.errorsAgree ∧ (afterStep s).isSome = true := by and_intros <;> decide +kernel

end Sys2Proof.Tests
end

/-! # The machine's state: what a step keeps, and the host's accesses (10_state.md) -/

namespace Sys2Proof.Machine

/-! ## What the engine can do

The ends of an instruction and of an engine move, said once: every invariant of a step follows from this list. -/

/-- What an instruction, or one move of the engine, can make of a state. -/
inductive EngineEnds (s : State) : State → Prop
  /-- A command that writes no window completes (R44, R48), with the record it may have emitted (R52). -/
  | completed (bitPos : Word) (record : Option Record) (res0 res1 : Word) :
      EngineEnds s (({ s with bitPos := bitPos, record := record }).afterSuccess res0 res1)
  /-- RENDER_LINE draws its line (R186). -/
  | drewLine : EngineEnds s (({ s with mem := writeLine s.mem s.lineWrites }).afterSuccess 0 0)
  /-- HUFF_CLEAR (R214). -/
  | clearedTree : EngineEnds s (({ s with huffWork := HuffTree.empty }).afterSuccess 0 0)
  /-- HUFF_ADD_NODE finds room in the tree and in its arena (R215). -/
  | addedNode (r : Inserted) (res0 res1 : Word) (hr : addNode s.huffWork s.op0.toNat s.op1 = some r)
      (hcap : r.tree.length ≤ s.params.huffCap) :
      EngineEnds s (({ s with huffWork := r.tree }).afterSuccess res0 res1)
  /-- The command ends with an error (R403). -/
  | raised (bitPos : Word) (kind : ErrKind) (info aux : Word) (ctx : BitVec 16) :
      EngineEnds s (({ s with bitPos := bitPos }).afterError kind.code info aux ctx)
  /-- The engine goes on inside a decode command (R63). -/
  | movedOn (bitPos : Word) (v : ParseVars) : EngineEnds s { s with bitPos := bitPos, parse := v }

namespace EngineEnds

theorem complete (s : State) (a b : Word) : EngineEnds s (s.complete a b) := .completed s.bitPos s.record a b

theorem raiseError (s : State) (e : Raise) (ctx : ErrCtx) : EngineEnds s (s.raiseError e ctx) :=
  .raised s.bitPos e.kind _ _ _

theorem violation (s : State) (reason aux : Nat) : EngineEnds s (s.violation reason aux) := raiseError s _ _

theorem endDecode (s : State) (start : Nat) (x : EStateM.Result Raise Cursor Record) :
    EngineEnds s (s.endDecode start x) := by
  cases x with
  | ok r c => exact .completed (Word.low c.pos) (some r) _ _
  | error e c => exact .raised (Word.low c.pos) e.kind _ _ _

theorem runDecode (s : State) (mapped : Bool) (start : Nat) (ctx : ErrCtx) (decoder : Parser Record) :
    EngineEnds s (s.runDecode mapped start ctx decoder) := by
  unfold State.runDecode
  split
  · exact violation s _ _
  · exact endDecode s _ _

theorem applyField (s : State) (f : Parser Progress) : EngineEnds s (s.applyField f) := by
  unfold State.applyField
  split
  · exact .movedOn _ _
  · exact endDecode s _ _
  · exact endDecode s _ _

theorem neighbor (s : State) (search : (Nat → Nat) → Nat → Option Nat) (which : Nat) :
    EngineEnds s (s.neighbor search which) := by
  unfold State.neighbor
  split
  · exact violation s _ _
  split
  · exact violation s _ _
  split
  · exact complete s _ _
  · exact raiseError s _ _

theorem enterDecode (s : State) (mapped : Bool) (stage : Stage) (setup : Bool) :
    EngineEnds s (s.enterDecode mapped stage setup) := by
  unfold State.enterDecode
  split
  · exact violation s _ _
  · exact .movedOn _ _

end EngineEnds

theorem execReadBits_ends (s : State) : ∃ t, execReadBits s = .next t ∧ EngineEnds s t := by
  refine ⟨_, rfl, ?_⟩
  split
  · exact .violation s _ _
  split
  · exact .violation s _ _
  split
  next c _ => exact .completed (Word.low c.pos) s.record _ _
  next => exact .raiseError s _ _

theorem execFloat32Unpack_ends (s : State) : ∃ t, execFloat32Unpack s = .next t ∧ EngineEnds s t := by
  refine ⟨_, rfl, ?_⟩
  split
  · exact .complete s _ _
  · exact .raiseError s _ _

theorem execLookup1Values_ends (s : State) : ∃ t, execLookup1Values s = .next t ∧ EngineEnds s t := by
  refine ⟨_, rfl, ?_⟩
  split
  · exact .complete s _ _
  · exact .raiseError s _ _

theorem execRenderPoint_ends (s : State) : ∃ t, execRenderPoint s = .next t ∧ EngineEnds s t := by
  refine ⟨_, rfl, ?_⟩
  split
  · exact .violation s _ _
  split
  · exact .complete s _ _
  · exact .violation s _ _

theorem execRenderLine_ends (s : State) : ∃ t, execRenderLine s = .next t ∧ EngineEnds s t := by
  refine ⟨_, rfl, ?_⟩
  split
  · exact .violation s _ _
  split
  · exact .drewLine
  · exact .violation s _ _

theorem execHuffAddNode_ends (s : State) : ∃ t, execHuffAddNode s = .next t ∧ EngineEnds s t := by
  refine ⟨_, rfl, ?_⟩
  split
  · exact .violation s _ _
  split
  · exact .raiseError s _ _
  next r hr =>
    split
    · exact .raiseError s _ _
    next hcap => exact .addedNode r _ _ hr (Nat.le_of_not_gt hcap)

/-- An instruction answers a state of the list. -/
theorem exec_ends (i : Instr) (s : State) : ∃ t, exec i s = .next t ∧ EngineEnds s t := by
  cases i with
  | readBits => exact execReadBits_ends s
  | ilog => exact ⟨_, rfl, .complete s _ _⟩
  | float32Unpack => exact execFloat32Unpack_ends s
  | lookup1Values => exact execLookup1Values_ends s
  | lowNeighbor | highNeighbor => exact ⟨_, rfl, .neighbor s _ _⟩
  | renderPoint => exact execRenderPoint_ends s
  | renderLine => exact execRenderLine_ends s
  | huffClear => exact ⟨_, rfl, .clearedTree⟩
  | huffAddNode => exact execHuffAddNode_ends s
  | decodeCodebook | decodeFloor | decodeResidue | decodeMapping | decodeMode | decodeTdt | decodeSetup =>
    exact ⟨_, rfl, .runDecode s _ _ _ _⟩
  | codebookSync | codebookLookupNone | codebookLookupType1 | codebookLookupType2 | floorType0 | floorType1
  | residueType0 | residueType1 | residueType2 | mappingType0 | mappingReserved | modeWindowType0
  | modeTransformType0 | tdtReserved | setupFraming => exact ⟨_, rfl, .applyField s _⟩

/-! ### A turn of the engine -/

/-- Where a turn leads: the state it goes to, or what its instruction answers. -/
def Turn.outcome : Turn → Host.Outcome State Fault Refusal
  | .run i s => exec i s
  | .done s => .next s

theorem step_eq_outcome (s : State) : step s = s.nextTurn.outcome := by
  unfold step
  cases s.nextTurn <;> rfl

theorem engineField_ends (s : State) : ∃ t, s.engineField.outcome = .next t ∧ EngineEnds s t := by
  unfold State.engineField
  split
  · exact ⟨_, rfl, .applyField s _⟩
  split
  · exact ⟨_, rfl, .endDecode s _ _⟩
  split
  · exact exec_ends _ s
  · exact ⟨_, rfl, .endDecode s _ _⟩

theorem engineTurn_ends (s : State) : ∃ t, s.engineTurn.outcome = .next t ∧ EngineEnds s t := by
  unfold State.engineTurn
  split
  · split
    · exact exec_ends _ s
    · exact ⟨_, rfl, .raiseError s _ _⟩
  · exact engineField_ends s

theorem engineMove_ends (s : State) : ∃ t, s.engineMove.outcome = .next t ∧ EngineEnds s t := by
  unfold State.engineMove
  split
  · split
    · split
      · exact ⟨_, rfl, .enterDecode s _ _ _⟩
      · exact exec_ends _ s
    · exact ⟨_, rfl, .raiseError s _ _⟩
  · exact engineField_ends s

/-- What a step can do: an IDLE engine waits, a host event lands, or a BUSY engine moves, perhaps bringing a pending
event nearer. -/
theorem step_cases {s t : State} (h : step s = .next t) :
    (s.phase = .idle ∧ s.bus = [] ∧ t = s) ∨
    (∃ e rest, s.bus = e :: rest ∧ (s.phase = .idle ∨ e.wait = some 0) ∧
      t = ({ s with bus := rest }).hostEvent e.event) ∨
    (s.phase = .busy ∧ ∃ bus, EngineEnds { s with bus := bus } t) := by
  have engine {u : State} {m : Turn} (hm : ∃ t, m.outcome = .next t ∧ EngineEnds u t)
      (h : m.outcome = .next t) : EngineEnds u t := by
    obtain ⟨t', ht', he⟩ := hm
    exact Host.Outcome.next.inj (ht'.symm.trans h) ▸ he
  rw [step_eq_outcome] at h
  unfold State.nextTurn at h
  split at h
  next hp hb => exact .inl ⟨hp, hb, (Host.Outcome.next.inj h).symm⟩
  next e rest hp hb => exact .inr (.inl ⟨e, rest, hb, .inl hp, (Host.Outcome.next.inj h).symm⟩)
  next hp hb => exact .inr (.inr ⟨hp, s.bus, engine (engineTurn_ends s) h⟩)
  next e rest hp hb =>
    split at h
    · exact .inr (.inr ⟨hp, s.bus, engine (engineTurn_ends s) h⟩)
    next hw => exact .inr (.inl ⟨e, rest, hb, .inr hw, (Host.Outcome.next.inj h).symm⟩)
    · exact .inr (.inr ⟨hp, _, engine (engineMove_ends _) h⟩)

/-! ## Growing a Huffman tree -/

theorem isInternalAt_iff {t : HuffTree} {n : Nat} :
    isInternalAt t n = true ↔ ∃ l r, t[n]? = some (.internal l r) := by
  unfold isInternalAt
  split
  next l r h => simp [h]
  next h => simpa using h

theorem isInternalAt_root {t : HuffTree} (h : t.wf) : isInternalAt t 0 = true := by
  obtain ⟨hroot, -, -⟩ := h
  match t, hroot with
  | .internal l r :: _, _ => rfl

/-- The node with a child put at one side. -/
def withChild (l r : Option Nat) (side : Bool) (k : Nat) : HuffNode :=
  if side then .internal l (some k) else .internal (some k) r

/-- Allocation under an internal node: the node is replaced in place, and the new node comes last. -/
theorem allocUnder_of_internal {t : HuffTree} {n : Nat} {l r : Option Nat} (hn : t[n]? = some (.internal l r))
    (side : Bool) (node : HuffNode) :
    allocUnder t n side node = t.set n (withChild l r side t.length) ++ [node] := by
  have hlt : n < t.length := (List.getElem?_eq_some_iff.mp hn).1
  simp [allocUnder, setChild, withChild, List.getElem?_append_left hlt, hn, List.set_append_left _ _ hlt]

/-- A free side takes the new child beside the children the node has. -/
theorem children_withChild {l r : Option Nat} {side : Bool} (hfree : nodeChild (.internal l r) side = none) (k : Nat) :
    ((withChild l r side k).children).Perm (k :: (HuffNode.internal l r).children) := by
  cases side with
  | false => simp_all [nodeChild, withChild, HuffNode.children]
  | true => simp [withChild, HuffNode.children, show r = none from hfree, List.perm_append_singleton]

/-- Replacing one element of a list by one with a further image puts that image into the flattened images. -/
theorem flatMap_set_perm {α β : Type} {f : α → List β} {x y : α} {k : β} (hx : (f x).Perm (k :: f y)) {t : List α}
    {n : Nat} (hn : t[n]? = some y) : ((t.set n x).flatMap f).Perm (k :: t.flatMap f) := by
  induction t generalizing n with
  | nil => simp at hn
  | cons a t ih =>
    cases n with
    | zero =>
      obtain rfl : a = y := by simpa using hn
      simpa using hx.append_right (t.flatMap f)
    | succ n => simpa using ((ih (by simpa using hn)).append_left (f a)).trans List.perm_middle

/-- Every child index of a legal tree names a node of it. -/
theorem child_lt_of_wf {t : HuffTree} (ht : t.wf) {c : Nat} (hc : c ∈ t.flatMap HuffNode.children) :
    c < t.length := by
  obtain ⟨-, hup, -⟩ := ht
  obtain ⟨x, hx, hc⟩ := List.mem_flatMap.mp hc
  obtain ⟨i, hi⟩ := List.mem_iff_getElem?.mp hx
  exact (hup i (List.getElem?_eq_some_iff.mp hi).1 c (by simpa [hi] using hc)).2

/-- Allocating a childless node under a free side of an internal node keeps R51: the new node comes last, and its parent
is the one node that names it. -/
theorem wf_allocUnder {t : HuffTree} (ht : t.wf) {n : Nat} {side : Bool} (hn : isInternalAt t n = true)
    (hfree : childOf t n side = none) {node : HuffNode} (hnode : node.children = []) :
    HuffTree.wf (allocUnder t n side node) := by
  obtain ⟨l, r, hn⟩ := isInternalAt_iff.mp hn
  have hfree : nodeChild (.internal l r) side = none := by simpa [childOf, hn] using hfree
  have hlt : n < t.length := (List.getElem?_eq_some_iff.mp hn).1
  have hperm := children_withChild hfree t.length
  have hnew : t.length ∉ t.flatMap HuffNode.children := fun h => Nat.lt_irrefl _ (child_lt_of_wf ht h)
  obtain ⟨hroot, hup, hone⟩ := ht
  rw [allocUnder_of_internal hn]
  refine ⟨?_, fun i hi c hc => ?_, fun j hj hpos => ?_⟩
  · cases t with
    | nil => cases hlt
    | cons a t =>
      cases n with
      | zero => cases side <;> rfl
      | succ n => exact hroot
  · simp only [List.length_append, List.length_set, List.length_singleton] at hi ⊢
    rcases Nat.lt_succ_iff_lt_or_eq.mp hi with hi | rfl
    · rw [List.getElem?_append_left (by simpa using hi)] at hc
      by_cases hin : i = n
      · subst hin
        rw [List.getElem?_set_self hi] at hc
        rcases List.mem_cons.mp (hperm.mem_iff.mp hc) with rfl | hc
        · omega
        · have := hup i hi c (by simpa [hn] using hc)
          omega
      · rw [List.getElem?_set_ne (Ne.symm hin)] at hc
        have := hup i hi c hc
        omega
    · simp [hnode] at hc
  · have hall : (t.set n (withChild l r side t.length) ++ [node]).flatMap HuffNode.children |>.Perm
        (t.length :: t.flatMap HuffNode.children) := by
      simpa [hnode] using flatMap_set_perm hperm hn
    simp only [List.length_append, List.length_set, List.length_singleton] at hj
    rw [hall.count_eq]
    rcases Nat.lt_succ_iff_lt_or_eq.mp hj with hj | rfl
    · rw [List.count_cons_of_ne (by omega), hone j hj hpos]
    · rw [List.count_cons_self, List.count_eq_zero.mpr hnew]

/-- A new internal node is internal where it was put. -/
theorem isInternalAt_allocUnder {t : HuffTree} {n : Nat} (hn : isInternalAt t n = true) (side : Bool)
    (l r : Option Nat) : isInternalAt (allocUnder t n side (.internal l r)) t.length = true := by
  obtain ⟨l', r', hn⟩ := isInternalAt_iff.mp hn
  simp [isInternalAt_iff, allocUnder_of_internal hn]

/-- A successful insertion at the last level: a free side takes the leaf. -/
theorem ins_one {s : Word} {t : HuffTree} {n : Nat} {r : Inserted} (h : ins s 1 t n = some r) :
    ∃ side, childOf t n side = none ∧ r = ⟨allocUnder t n side (.leaf s), t.length, [side]⟩ := by
  unfold ins at h
  split at h
  next h0 => exact ⟨false, h0, (Option.some.inj h).symm⟩
  split at h
  next h1 => exact ⟨true, h1, (Option.some.inj h).symm⟩
  · cases h

/-- One side tried above the last level (R211). -/
def insSide (s : Word) (rem : Nat) (t : HuffTree) (n : Nat) (side : Bool) : Option Inserted :=
  match childOf t n side with
  | none => (ins s (rem + 1) (allocUnder t n side (.internal none none)) t.length).map (Inserted.under side)
  | some c => if isInternalAt t c then (ins s (rem + 1) t c).map (Inserted.under side) else none

/-- Left is tried before right. -/
theorem ins_add_two (s : Word) (rem : Nat) (t : HuffTree) (n : Nat) :
    ins s (rem + 2) t n = (insSide s rem t n false).or (insSide s rem t n true) := by
  show (match insSide s rem t n false with
    | some r => some r
    | none => insSide s rem t n true) = _
  cases insSide s rem t n false <;> rfl

/-- A side that takes the insertion is free and takes a new internal node, or holds an internal child; the insertion
goes on there. -/
theorem insSide_eq_some {s : Word} {rem : Nat} {t : HuffTree} {n : Nat} {side : Bool} {r : Inserted}
    (h : insSide s rem t n side = some r) :
    ∃ below, r = Inserted.under side below ∧
      ((childOf t n side = none ∧
          ins s (rem + 1) (allocUnder t n side (.internal none none)) t.length = some below) ∨
        ∃ c, childOf t n side = some c ∧ isInternalAt t c = true ∧ ins s (rem + 1) t c = some below) := by
  unfold insSide at h
  split at h
  next hfree =>
    obtain ⟨below, hb, rfl⟩ := Option.map_eq_some_iff.mp h
    exact ⟨below, rfl, .inl ⟨hfree, hb⟩⟩
  next c hc =>
    split at h
    next hint =>
      obtain ⟨below, hb, rfl⟩ := Option.map_eq_some_iff.mp h
      exact ⟨below, rfl, .inr ⟨c, hc, hint, hb⟩⟩
    · cases h

/-- An insertion keeps R51. -/
theorem wf_ins {s : Word} : ∀ {rem : Nat} {t : HuffTree} {n : Nat} {r : Inserted}, t.wf → isInternalAt t n = true →
    ins s rem t n = some r → r.tree.wf
  | 0, _, _, _, _, _, h => by simp [ins] at h
  | 1, _, _, _, ht, hn, h => by
    obtain ⟨side, hfree, rfl⟩ := ins_one h
    exact wf_allocUnder ht hn hfree rfl
  | rem + 2, _, _, _, ht, hn, h => by
    obtain ⟨side, hside⟩ : ∃ side, insSide _ rem _ _ side = some _ := by
      rw [ins_add_two, Option.or_eq_some_iff] at h
      exact h.elim (⟨false, ·⟩) fun h => ⟨true, h.2⟩
    obtain ⟨below, rfl, ⟨hfree, h⟩ | ⟨c, -, hc, h⟩⟩ := insSide_eq_some hside
    · exact wf_ins (r := below) (wf_allocUnder ht hn hfree rfl) (isInternalAt_allocUnder hn _ _ _) h
    · exact wf_ins (r := below) ht hc h

theorem wf_addNode {t : HuffTree} (ht : t.wf) {length : Nat} {s : Word} {r : Inserted}
    (h : addNode t length s = some r) : r.tree.wf := wf_ins ht (isInternalAt_root ht) h

theorem wf_emptyTree : HuffTree.empty.wf := by decide

/-! ## The invariant -/

/-- A soft reset gives every field its reset value but those that R451 and R452 spare. -/
theorem softReset_eq (s : State) :
    s.softReset = { State.resetWith s.params with
      hostFault := s.hostFault, mem := s.softReset.mem, bus := s.bus, readData := s.readData, resets := s.resets,
      draws := s.softReset.draws } := by
  unfold State.softReset
  split <;> rfl

theorem softReset_fields (s : State) :
    s.softReset.params = s.params ∧ s.softReset.huffWork = HuffTree.empty ∧ s.softReset.parse = ParseVars.none := by
  rw [softReset_eq]
  exact ⟨rfl, rfl, rfl⟩

theorem wf_softReset_mem {s : State} (h : Memory.wf s.mem) : Memory.wf s.softReset.mem := by
  unfold State.softReset
  split
  · exact wf_abortedLine h
  · exact h

theorem wf_storeInBytes {m : Memory} (h : Memory.wf m) (p : Params) (i : Nat) (w : Word) (lanes : List Nat) :
    Memory.wf (lanes.foldl (storeInByte p i w) m) := by
  induction lanes generalizing m with
  | nil => exact h
  | cons j rest ih => exact ih (wf_storeInByte h p i w j)

namespace State.Inv

variable {s t : State}

theorem mem_wf (h : s.Inv) : Memory.wf s.mem := h.2.1

/-- Only the parameters, the memory, the tree, the phase and the parse variables matter. -/
theorem congr (h : s.Inv) (hp : t.params = s.params) (hm : Memory.wf t.mem) (ht : t.huffWork = s.huffWork)
    (hv : t.phase = .idle → t.parse = ParseVars.none) : t.Inv := by
  obtain ⟨hparams, -, htree, hcap, -⟩ := h
  exact ⟨hp ▸ hparams, hm, ht ▸ htree, by rw [hp, ht]; exact hcap, hv⟩

/-- Clearing the tree and the parse variables keeps the invariant, whatever becomes of the registers. -/
theorem of_cleared (h : s.Inv) (hp : t.params = s.params) (hm : Memory.wf t.mem) (ht : t.huffWork = HuffTree.empty)
    (hv : t.parse = ParseVars.none) : t.Inv := by
  obtain ⟨hparams, -, -, -, -⟩ := h
  obtain ⟨-, -, -, ⟨hcap, -⟩, -⟩ := hp ▸ hparams
  exact ⟨hp ▸ hparams, hm, ht ▸ wf_emptyTree, by rw [ht]; exact hcap, fun _ => hv⟩

/-- The engine keeps the invariant while it is BUSY. -/
theorem engineEnds (h : s.Inv) (hb : s.phase = .busy) (he : EngineEnds s t) : t.Inv := by
  have hmem := h.mem_wf
  cases he with
  | completed | raised => exact h.congr rfl hmem rfl fun _ => rfl
  | drewLine => exact h.congr rfl (wf_writeLine hmem _) rfl fun _ => rfl
  | clearedTree => exact h.of_cleared rfl hmem rfl rfl
  | addedNode r _ _ hr hcap =>
    obtain ⟨hparams, -, htree, -, -⟩ := h
    exact ⟨hparams, hmem, wf_addNode htree hr, hcap, fun _ => rfl⟩
  | movedOn => exact h.congr rfl hmem rfl fun hi => by simp [hb] at hi

theorem softReset (h : s.Inv) : s.softReset.Inv := by
  obtain ⟨hp, ht, hv⟩ := softReset_fields s
  exact h.of_cleared hp (wf_softReset_mem h.mem_wf) ht hv

theorem writeCtrl (h : s.Inv) (v : Word) : (s.writeCtrl v).Inv := by
  unfold State.writeCtrl
  split
  · exact h.softReset
  · exact h

theorem writeReg (h : s.Inv) (v : Word) (r : Reg) : (s.writeReg v r).Inv := by
  cases r <;> exact h

theorem writeLoc (h : s.Inv) (v : Word) (l : Loc) : (s.writeLoc v l).Inv := by
  have hmem := h.mem_wf
  obtain ⟨-, -, -, -, hidle⟩ := id h
  unfold State.writeLoc
  split
  · exact h.congr rfl hmem rfl fun _ => rfl
  · exact h.writeCtrl v
  · exact h.writeReg v _
  · exact h.congr rfl (Memory.wf_setWord hmem _ _) rfl hidle
  · exact h.congr rfl (Memory.wf_setWord hmem _ _) rfl hidle
  · exact h.congr rfl (wf_storeInBytes hmem _ _ _ _) rfl hidle
  · exact h
  · exact h
  · exact h

theorem hostWrite (h : s.Inv) (width : Width) (offset : Nat) (v : Word) : (s.hostWrite width offset v).Inv := by
  unfold State.hostWrite
  split
  · exact h
  split
  · split
    · exact h.writeCtrl v
    · exact h
  · exact h.writeLoc v _

theorem hostRead (h : s.Inv) (width : Width) (offset : Nat) : (s.hostRead width offset).Inv := by
  unfold State.hostRead
  split
  · exact h
  split
  · exact h
  · exact h

theorem hostEvent (h : s.Inv) (e : HostEvent) : (s.hostEvent e).Inv := by
  unfold State.hostEvent
  split
  · split
    · exact h.hostWrite _ _ _
    · exact h
  · split
    · exact h.hostRead _ _
    · exact h
  · exact h.of_cleared rfl List.Pairwise.nil rfl rfl

end State.Inv

/-- Settles O58: a step waits, lets a host event land, or moves the engine, and each keeps the invariant. -/
theorem stepKeepsInvariant : Obligations.StepKeepsInvariant := by
  intro s t h hstep
  obtain ⟨-, -, rfl⟩ | ⟨e, rest, -, -, rfl⟩ | ⟨hb, bus, he⟩ := step_cases hstep
  · exact h
  · exact State.Inv.hostEvent (s := { s with bus := rest }) h e.event
  · exact State.Inv.engineEnds (s := { s with bus := bus }) h hb he

/-! ## Host accesses

A landing access as one equation per case: its phase, its width and its alignment. -/

section
variable {s : State} {w : Option Nat} {rest : List Pending} {offset : Nat} {width : Width} {v : Word}

/-- A landing host event. -/
theorem step_event {e : HostEvent} (hb : s.bus = ⟨w, e⟩ :: rest) (h : s.phase = .idle ∨ w = some 0) :
    step s = .next (({ s with bus := rest }).hostEvent e) := step_of_done (nextTurn_event hb h)

/-- A landing host write at an offset of the block. -/
theorem step_write (hb : s.bus = ⟨w, .write (s.params.base + offset) width v⟩ :: rest)
    (h : s.phase = .idle ∨ w = some 0) (ho : offset < 2 ^ 32) :
    step s = .next (({ s with bus := rest }).hostWrite width offset v) := by
  rw [step_event hb h]
  simp [State.hostEvent, busOffset_base ho]

/-- A landing host read at an offset of the block. -/
theorem step_read (hb : s.bus = ⟨w, .read (s.params.base + offset) width⟩ :: rest)
    (h : s.phase = .idle ∨ w = some 0) (ho : offset < 2 ^ 32) :
    step s = .next (({ s with bus := rest }).hostRead width offset) := by
  rw [step_event hb h]
  simp [State.hostEvent, busOffset_base ho]

theorem accessOk_word (h : offset % 4 = 0) : accessOk .word offset = true := by simp [accessOk, h]

theorem hostWrite_idle (hp : s.phase = .idle) (h4 : offset % 4 = 0) :
    s.hostWrite .word offset v = s.writeLoc v (locate s.params offset) := by
  simp [State.hostWrite, accessOk_word h4, State.busy, hp]

theorem hostWrite_busy (hp : s.phase = .busy) (hc : offset ≠ Reg.ctrl.offset) :
    s.hostWrite width offset v = { s with hostFault := true } := by
  unfold State.hostWrite
  split
  · rfl
  · exact if_pos (by simp [State.busy, hp])

theorem hostRead_idle (hp : s.phase = .idle) (h4 : offset % 4 = 0) :
    s.hostRead .word offset = { s with readData := s.readLoc (locate s.params offset) } := by
  simp [State.hostRead, accessOk_word h4, State.busy, hp]

theorem hostRead_busy (hp : s.phase = .busy) (h4 : offset % 4 = 0) (hc : offset ≠ Reg.status.offset) :
    s.hostRead .word offset = s.drawRead := by
  simp [State.hostRead, accessOk_word h4, State.busy, hp, hc]

/-- While IDLE a well-formed write stores at its location. -/
theorem step_write_idle (hp : s.phase = .idle) (hb : s.bus = ⟨w, .write (s.params.base + offset) .word v⟩ :: rest)
    (h4 : offset % 4 = 0) (ho : offset < 2 ^ 32) :
    step s = .next (({ s with bus := rest }).writeLoc v (locate s.params offset)) :=
  (step_write hb (.inl hp) ho).trans (congrArg _ (hostWrite_idle hp h4))

/-- While IDLE a well-formed read answers its location. -/
theorem step_read_idle (hp : s.phase = .idle) (hb : s.bus = ⟨w, .read (s.params.base + offset) .word⟩ :: rest)
    (h4 : offset % 4 = 0) (ho : offset < 2 ^ 32) :
    step s = .next { s with
      bus := rest, readData := ({ s with bus := rest }).readLoc (locate s.params offset) } :=
  (step_read hb (.inl hp) ho).trans (congrArg _ (hostRead_idle hp h4))

end

/-! ### The register page -/

@[simp] theorem locate_reg (p : Params) (r : Reg) : locate p r.offset = .reg r := by cases r <;> rfl

theorem Reg.offset_aligned (r : Reg) : r.offset % 4 = 0 := by cases r <;> rfl

theorem Reg.offset_lt (r : Reg) : r.offset < 2 ^ 32 := by cases r <;> decide

/-- A write to CTRL, in either phase. -/
theorem hostWrite_ctrl (s : State) (v : Word) : s.hostWrite .word Reg.ctrl.offset v = s.writeCtrl v := by
  cases hp : s.phase with
  | idle => rw [hostWrite_idle hp (Reg.offset_aligned _), locate_reg]; rfl
  | busy => simp [State.hostWrite, accessOk_word (Reg.offset_aligned _), State.busy, hp]

/-- A read of STATUS, in either phase. -/
theorem hostRead_status (s : State) :
    s.hostRead .word Reg.status.offset = { s with readData := s.statusWord } := by
  simp [State.hostRead, accessOk_word (Reg.offset_aligned _), locate_reg, State.readLoc, State.readReg]

/-- The opcodes of R102's decode class, listed. -/
theorem isDecodeOpcode_eq (c : Byte) :
    isDecodeOpcode c = decide (c ∈ [0x10, 0x11, 0x12, 0x13, 0x14, 0x15, 0x20]) := by
  revert c
  decide

/-- Settles O10: CMD is a register of the page, and a write to it starts the command. -/
theorem commandWriteStarts : Obligations.CommandWriteStarts := by
  intro s w v rest hp hb
  have hstep := step_write_idle (offset := Reg.cmd.offset) hp hb (Reg.offset_aligned _) (Reg.offset_lt _)
  rw [locate_reg] at hstep
  rw [hstep]
  simp [State.writeLoc, State.startCommand, isDecodeOpcode_eq]

/-- The registers whose host write while IDLE is a register write and no more (R34, R42 for the other two). -/
def plainRegs : List Reg :=
  [.bitPos, .inLen, .audioChannels, .vecLen, .lineLen, .op0, .op1, .op2, .op3, .op4, .status, .errCode, .errInfo,
   .errAux, .errCtx, .huffCount, .res0, .res1]

theorem writeLoc_plain {r : Reg} (hr : r ∈ plainRegs) (s : State) (v : Word) :
    s.writeLoc v (.reg r) = s.writeReg v r := by
  cases r with
  | cmd | ctrl => simp [plainRegs] at hr
  | _ => rfl

/-- The registers other than STATUS, whose fields are read apart (R35). -/
def wholeRegs : List Reg :=
  [.cmd, .errCode, .errInfo, .errAux, .errCtx, .bitPos, .inLen, .audioChannels, .vecLen, .lineLen, .ctrl, .huffCount,
   .op0, .op1, .op2, .op3, .op4, .res0, .res1]

/-- Settles O48: each listed pair is a register's offset with what `writeReg` stores, or `readReg` answers. -/
theorem idleRegisterAccess : Obligations.IdleRegisterAccess := by
  intro s w v rest offset t hp
  refine ⟨fun hb hmem => ?_, fun hb hmem => ?_⟩
  · change (offset, t) ∈ plainRegs.map fun r => (r.offset, ({ s with bus := rest }).writeReg v r) at hmem
    obtain ⟨r, hr, heq⟩ := List.mem_map.mp hmem
    obtain ⟨rfl, rfl⟩ := Prod.mk.inj heq
    rw [step_write_idle hp hb r.offset_aligned r.offset_lt, locate_reg, writeLoc_plain hr]
  · change (offset, v) ∈ wholeRegs.map fun r => (r.offset, s.readReg r) at hmem
    obtain ⟨r, hr, heq⟩ := List.mem_map.mp hmem
    obtain ⟨rfl, rfl⟩ := Prod.mk.inj heq
    rw [step_read_idle hp hb r.offset_aligned r.offset_lt, locate_reg]
    cases r <;> rfl

/-! ### STATUS -/

/-- The bits of a word laid out as R35 lays out STATUS. -/
theorem statusLayout_bits : ∀ (busy done err valid fault : Bool) (kind : Fin 8),
    let v := Word.low (bitAt busy 0 + bitAt done 1 + bitAt err 2 + bitAt valid 3 + bitAt fault 4 + 256 * kind.val)
    v.getLsbD 0 = busy ∧ v.getLsbD 1 = done ∧ v.getLsbD 2 = err ∧ v.getLsbD 3 = valid ∧ v.getLsbD 4 = fault ∧
      v.extractLsb' 5 3 = 0 ∧ (v.extractLsb' 8 4).toNat = kind.val ∧ v.extractLsb' 12 20 = 0 := by
  decide

theorem recKind_lt (s : State) : s.recKind < 8 := by
  unfold State.recKind recordKind
  split
  · decide
  · split <;> decide

/-- Settles O49: a read of STATUS answers its word in either phase, and the word's bits are its fields. -/
theorem statusReadsItsFields : Obligations.StatusReadsItsFields := by
  intro s w rest h hb
  refine ⟨s.statusWord, ?_, ?_⟩
  · rw [step_read (offset := Reg.status.offset) hb h (Reg.offset_lt _), hostRead_status]
    rfl
  · obtain ⟨hbusy, hdone, herr, hvalid, hfault, hlow, hkind, hhigh⟩ :=
      statusLayout_bits s.busy s.done s.err s.recordValid s.hostFault ⟨s.recKind, recKind_lt s⟩
    refine ⟨hbusy.trans ?_, hdone, herr, hvalid, hfault, hlow, hkind.trans ?_, hhigh⟩
    · unfold State.busy
      cases s.phase <;> rfl
    · show s.recKind = _
      unfold State.recKind recordKind
      cases s.record with
      | none => rfl
      | some r => cases r <;> rfl

/-! ### Accesses while BUSY -/

/-- Settles O53: a write is refused unless it is one to CTRL, and a well-formed read but of STATUS is a draw. -/
theorem busyAccessesAreRefused : Obligations.BusyAccessesAreRefused := by
  intro s offset width v rest hp ho
  refine ⟨fun hc hb => ?_, fun hc h4 hb => ⟨Config.busDraw s.draws, s.draws + 1, ?_⟩⟩
  · exact (step_write hb (.inr rfl) ho).trans (congrArg _ (hostWrite_busy hp hc))
  · exact (step_read hb (.inr rfl) ho).trans (congrArg _ (hostRead_busy hp h4 hc))

/-! ### Holes -/

theorem regAt_eq_some {offset : Nat} {r : Reg} (h : regAt offset = some r) : r.offset = offset := by
  simpa using List.find?_some h

/-- The offsets of the block that name nothing: unlisted ones of the register page, those between the windows or at or
beyond a window's capacity, and those beyond the last window (R45, R71, R83). -/
def IsHole (p : Params) (offset : Nat) : Prop :=
  offset ∈ [0x34, 0x38, 0x3C, 0x54, 0x58, 0x5C] ∨ (0x68 ≤ offset ∧ offset < 0x1000) ∨
  (0x1000 + 4 * p.vecCap ≤ offset ∧ offset < 0x10000) ∨ (0x10000 + 4 * p.lineCap ≤ offset ∧ offset < 0x100000) ∨
  (0x100000 + 16 * p.huffCap ≤ offset ∧ offset < 0x1000000) ∨ (0x2000000 ≤ offset ∧ offset < 0x10000000) ∨
  0x10000000 + p.inCap ≤ offset

/-- No register has an offset that is a hole. -/
theorem Reg.offset_not_hole (p : Params) (r : Reg) : ¬ IsHole p r.offset := by
  unfold IsHole
  cases r <;> simp [Reg.offset] <;> omega

theorem locate_hole {p : Params} (hp : p.wf) {offset : Nat} (h : IsHole p offset) : locate p offset = .nothing := by
  have hreg (r : Reg) : regAt offset ≠ some r := fun hr => r.offset_not_hole p (regAt_eq_some hr ▸ h)
  obtain ⟨⟨-, hin⟩, ⟨-, hvec⟩, ⟨-, hline⟩, ⟨-, hhuff⟩, -⟩ := hp
  unfold locate vecBase lineBase huffBase recBase inBase
  by_cases hpage : offset < 0x100
  · rw [if_pos hpage]
    cases hr : regAt offset with
    | none => rfl
    | some r => exact absurd hr (hreg r)
  · simp only [IsHole, List.mem_cons, List.not_mem_nil, or_false] at h
    rw [if_neg hpage, if_neg (by omega), if_neg (by omega), if_neg (by omega), if_neg (by omega), if_neg (by omega)]

/-- Between the start of HUFF_WORK's window and the end of REC_STORE's there is nothing else. -/
theorem locate_readOnly {p : Params} (hp : p.wf) {offset : Nat} (h : 0x100000 ≤ offset ∧ offset < 0x2000000) :
    (∃ i w, locate p offset = .huff i w) ∨ (∃ i, locate p offset = .recWord i) ∨ locate p offset = .nothing := by
  obtain ⟨-, ⟨-, hvec⟩, ⟨-, hline⟩, -⟩ := hp
  unfold locate vecBase lineBase huffBase recBase inBase
  rw [if_neg (by omega), if_neg (by omega), if_neg (by omega)]
  split
  · exact .inl ⟨_, _, rfl⟩
  split
  · exact .inr (.inl ⟨_, rfl⟩)
  · exact .inr (.inr (if_neg (by omega)))

/-- Settles O51: a hole's location is `nothing`, and the two read-only windows ignore a write as `nothing` does. -/
theorem holesReadZeroAndIgnoreWrites : Obligations.HolesReadZeroAndIgnoreWrites := by
  intro s w v rest offset hp hwf h4 ho
  refine ⟨fun hplace hb => ?_, fun hhole hb => ?_⟩
  · rw [step_write_idle hp hb h4 ho]
    have hloc : (∃ i w, locate s.params offset = .huff i w) ∨ (∃ i, locate s.params offset = .recWord i) ∨
        locate s.params offset = .nothing :=
      hplace.elim (fun hhole => .inr (.inr (locate_hole hwf hhole))) (locate_readOnly hwf)
    obtain ⟨i, k, hl⟩ | ⟨i, hl⟩ | hl := hloc <;> rw [hl] <;> rfl
  · rw [step_read_idle hp hb h4 ho, locate_hole hwf hhole]
    rfl

/-! ## The soft reset -/

/-! ### The line of `renderLine` is the line of `renderPoint` -/

/-- The sign of a rise (R184, R187). -/
def slopeSign (dy : Int) : Int := if dy < 0 then -1 else 1

/-- `renderPoint` as one formula: the rise's magnitude in proportion, with the rise's sign. -/
theorem renderPoint_eq {x0 y0 x1 y1 x : Int} (hx : x0 < x1) (hx0 : x0 ≤ x) :
    renderPoint x0 y0 x1 y1 x =
      some (y0 + slopeSign (y1 - y0) * (((y1 - y0).natAbs * (x - x0)) / (x1 - x0))) := by
  have hoff : 0 ≤ ((y1 - y0).natAbs : Int) * (x - x0) := Int.mul_nonneg (by omega) (by omega)
  simp only [renderPoint, slopeSign, Int.tdiv_eq_ediv_of_nonneg hoff]
  rw [if_neg (by omega)]
  split <;> congr 1 <;> omega

/-- The quotient of `renderLine`'s slope keeps the rise's sign. -/
theorem tdiv_eq_slopeSign_mul (dy adx : Int) : dy.tdiv adx = slopeSign dy * ((dy.natAbs : Int) / adx) := by
  unfold slopeSign
  split
  next h =>
    have hneg : dy = -(dy.natAbs : Int) := by omega
    conv => lhs; rw [hneg, Int.neg_tdiv, Int.tdiv_eq_ediv_of_nonneg (by omega)]
    omega
  next h =>
    have hpos : dy = (dy.natAbs : Int) := by omega
    conv => lhs; rw [hpos, Int.tdiv_eq_ediv_of_nonneg (by omega)]
    omega

/-- The elements of the loop of R187, in closed form. Before element `k + 1` of the line the height is `off` away from
`y0`, and `err` is what the division of `k` rises leaves. -/
theorem mem_lineLoop {y0 sign q r adx : Int} (hr : 0 ≤ r) (hra : r < adx) {n : Nat} :
    ∀ {x : Nat} {y err k off : Int}, 0 ≤ err → err < adx → adx * off + err = (adx * q + r) * k →
      y = y0 + sign * off → ∀ p ∈ lineLoop (sign * q) (sign * q + sign) r adx n x y err,
        ∃ j < n, p.1 = x + j ∧ p.2 = y0 + sign * ((adx * q + r) * (k + 1 + j) / adx) := by
  induction n with
  | zero => intro x y err k off _ _ _ _ p hp; cases hp
  | succ n ih =>
    intro x y err k off h0 hlt hoff hy p hp
    have hdiv {off' err' : Int} (h0 : 0 ≤ err') (hlt : err' < adx) (h : adx * off' + err' = (adx * q + r) * (k + 1)) :
        (adx * q + r) * (k + 1) / adx = off' := by
      rw [← h, Int.mul_add_ediv_left _ _ (by omega), Int.ediv_eq_zero_of_lt h0 hlt, Int.add_zero]
    have next {off' err' : Int} (h0 : 0 ≤ err') (hlt : err' < adx)
        (h : adx * off' + err' = (adx * q + r) * (k + 1)) {y' : Int} (hy' : y' = y0 + sign * off')
        (hp : p ∈ (x, y') :: lineLoop (sign * q) (sign * q + sign) r adx n (x + 1) y' err') :
        ∃ j < n + 1, p.1 = x + j ∧ p.2 = y0 + sign * ((adx * q + r) * (k + 1 + j) / adx) := by
      rcases List.mem_cons.mp hp with rfl | hp
      · exact ⟨0, by omega, rfl, by simp [hdiv h0 hlt h, hy']⟩
      · obtain ⟨j, hj, hx, hy⟩ := ih h0 hlt h hy' p hp
        refine ⟨j + 1, by omega, by omega, ?_⟩
        rw [hy, show k + 1 + 1 + (j : Int) = k + 1 + ((j + 1 : Nat) : Int) by omega]
    unfold lineLoop at hp
    split at hp
    · refine next (off' := off + q + 1) (by omega) (by omega) ?_ ?_ hp
      · simp only [Int.mul_add, Int.mul_one]
        omega
      · simp only [hy, Int.mul_add, Int.mul_one]
        omega
    · refine next (off' := off + q) (by omega) (by omega) ?_ ?_ hp
      · simp only [Int.mul_add, Int.mul_one]
        omega
      · simp only [hy, Int.mul_add]
        omega

/-- The loop of R187 runs with the quotient and the remainder of the rise's magnitude. -/
theorem renderLine_eq {x0 x1 : Nat} {y0 y1 sign rise adx : Int} (hx : x0 < x1) (hsign : sign = slopeSign (y1 - y0))
    (hrise : rise = (y1 - y0).natAbs) (hadx : adx = (x1 : Int) - x0) :
    renderLine x0 y0 x1 y1 =
      (x0, y0) :: lineLoop (sign * (rise / adx)) (sign * (rise / adx) + sign) (rise % adx) adx (x1 - x0 - 1)
        (x0 + 1) y0 0 := by
  have hq : 0 ≤ rise / adx := Int.ediv_nonneg (by omega) (by omega)
  have hbase : (y1 - y0).tdiv adx = sign * (rise / adx) := by rw [hsign, hrise]; exact tdiv_eq_slopeSign_mul _ _
  have hsy (a : Int) : (if y1 - y0 < 0 then a - 1 else a + 1) = a + sign := by
    rw [hsign, slopeSign]; split <;> omega
  have habs : ((sign * (rise / adx)).natAbs : Int) = rise / adx := by
    rw [hsign, slopeSign]; split <;> omega
  have hrem : rise - rise / adx * adx = rise % adx := by
    rw [Int.mul_comm, Int.emod_def]
  simp only [renderLine, ← hadx, hbase, hsy, habs, ← hrise, hrem]

/-- Each element write of `renderLine` lies on the line, with the value of `renderPoint` there. -/
theorem mem_renderLine {x0 x1 : Nat} {y0 y1 : Int} (hx : x0 < x1) {p : Nat × Int} (hp : p ∈ renderLine x0 y0 x1 y1) :
    x0 ≤ p.1 ∧ p.1 < x1 ∧ renderPoint x0 y0 x1 y1 p.1 = some p.2 := by
  have hadx : (0 : Int) < (x1 : Int) - x0 := by omega
  rw [renderLine_eq hx rfl rfl rfl] at hp
  rcases List.mem_cons.mp hp with rfl | hp
  · refine ⟨Nat.le_refl _, hx, ?_⟩
    simp [renderPoint_eq (show (x0 : Int) < x1 by omega) (Int.le_refl _)]
  · obtain ⟨j, hj, hx', hy'⟩ := mem_lineLoop (k := 0) (off := 0) (Int.emod_nonneg _ (by omega))
      (Int.emod_lt_of_pos _ hadx) (Int.le_refl 0) hadx (by rw [Int.mul_zero, Int.mul_zero]; rfl)
      (by rw [Int.mul_zero, Int.add_zero]) p hp
    refine ⟨by omega, by omega, ?_⟩
    rw [renderPoint_eq (by omega) (by omega), hy', Int.mul_ediv_add_emod, hx',
      show ((x0 + 1 + j : Nat) : Int) - x0 = 0 + 1 + j by omega]

/-! ### The aborted line -/

/-- The element writes of a line, each kept or lost. -/
def keepLine (epoch : Nat) (keep : Nat → Bool) (m : Memory) (writes : List (Nat × Int)) : Memory :=
  writes.foldl (fun m w => m.setWord (lineOffset w.1)
    (if keep w.1 then Word.ofI32 w.2 else m.word epoch (lineOffset w.1))) m

/-- An element holds its old value or one that was to be written to it. -/
theorem word_keepLine (e : Nat) (keep : Nat → Bool) (m : Memory) (writes : List (Nat × Int)) (x : Nat) :
    (keepLine e keep m writes).word e (lineOffset x) = m.word e (lineOffset x) ∨
      ∃ y, (x, y) ∈ writes ∧ (keepLine e keep m writes).word e (lineOffset x) = Word.ofI32 y := by
  induction writes generalizing m with
  | nil => exact .inl rfl
  | cons w rest ih =>
    rcases ih (m.setWord (lineOffset w.1) (if keep w.1 then Word.ofI32 w.2 else m.word e (lineOffset w.1))) with
      h | ⟨y, hy, h⟩
    · by_cases hx : w.1 = x
      · subst hx
        rw [Memory.word_setWord] at h
        by_cases hk : keep w.1 = true
        · exact .inr ⟨w.2, List.mem_cons_self, h.trans (if_pos hk)⟩
        · exact .inl (h.trans (if_neg hk))
      · rw [Memory.word_setWord_ne _ _ _ (by unfold lineOffset; omega)] at h
        exact .inl h
    · exact .inr ⟨y, List.mem_cons_of_mem _ hy, h⟩

/-- No other byte changes. -/
theorem byte_keepLine_ne (e : Nat) (keep : Nat → Bool) (m : Memory) (a : Nat) (writes : List (Nat × Int))
    (h : ∀ w ∈ writes, a < lineOffset w.1 ∨ lineOffset w.1 + 4 ≤ a) :
    (keepLine e keep m writes).byte e a = m.byte e a := by
  induction writes generalizing m with
  | nil => rfl
  | cons w rest ih =>
    have hw := h w List.mem_cons_self
    refine (ih _ fun x hx => h x (List.mem_cons_of_mem _ hx)).trans ?_
    rw [Memory.byte_setWord, if_neg (by omega)]

/-! ### What a soft reset leaves -/

theorem decodeOpcode_eq_renderLine {op : Nat} : decodeOpcode op = .ok .renderLine ↔ op = 8 := by
  unfold decodeOpcode
  split <;> simp_all

theorem drawingLine_iff (s : State) : s.drawingLine = true ↔ s.phase = .busy ∧ s.cmd = 0x08 := by
  have hcmd : s.cmd = 0x08 ↔ decodeOpcode s.cmd.toNat = .ok .renderLine := by
    rw [decodeOpcode_eq_renderLine, ← BitVec.toNat_inj]
    rfl
  rw [hcmd]
  unfold State.drawingLine State.busy
  split <;> simp_all

/-- A RENDER_LINE whose operands are legal is under way (R186). -/
def State.LineUnderWay (s : State) : Prop :=
  s.phase = .busy ∧ s.cmd = 0x08 ∧ s.lineLen.toNat ≤ s.params.lineCap ∧ 0 ≤ s.op0.toInt ∧
    s.op0.toInt < s.op2.toInt ∧ s.op2.toInt ≤ s.lineLen.toNat

theorem lineInBounds_iff (s : State) :
    s.lineInBounds = true ↔ 0 ≤ s.op0.toInt ∧ s.op0.toInt < s.op2.toInt ∧ s.op2.toInt ≤ s.lineLen.toNat := by
  simp [State.lineInBounds, and_assoc]

theorem softReset_mem_of_line {s : State} (h : s.LineUnderWay) :
    s.softReset.mem = keepLine s.resets (Config.lineKeepsNew s.draws) s.mem s.lineWrites := by
  obtain ⟨hp, hcmd, hcap, hbounds⟩ := h
  rw [State.softReset, if_pos ((drawingLine_iff s).mpr ⟨hp, hcmd⟩)]
  exact if_pos (by simp [hcap, (lineInBounds_iff s).mpr hbounds])

theorem softReset_mem_of_not_line {s : State} (h : ¬ s.LineUnderWay) : s.softReset.mem = s.mem := by
  unfold State.softReset
  split
  next hd =>
    obtain ⟨hp, hcmd⟩ := (drawingLine_iff s).mp hd
    refine if_neg fun hline => h ?_
    simp only [Bool.and_eq_true, decide_eq_true_eq, lineInBounds_iff] at hline
    exact ⟨hp, hcmd, hline⟩
  · rfl

theorem toInt_of_nonneg {w : Word} (h : 0 ≤ w.toInt) : w.toInt = w.toNat := by
  rw [BitVec.toInt_eq_toNat_cond] at h ⊢
  have := w.isLt
  split at h <;> omega

/-- Legal operands ask for writes inside the line only, each with the value of `renderPoint` (R184, R187). -/
theorem mem_lineWrites {s : State} (h0 : 0 ≤ s.op0.toInt) (hlt : s.op0.toInt < s.op2.toInt) {p : Nat × Int}
    (hp : p ∈ s.lineWrites) :
    s.op0.toNat ≤ p.1 ∧ p.1 < s.op2.toNat ∧
      renderPoint s.op0.toInt s.op1.toInt s.op2.toInt s.op3.toInt p.1 = some p.2 := by
  have hop0 := toInt_of_nonneg h0
  have hop2 := toInt_of_nonneg (w := s.op2) (by omega)
  unfold State.lineWrites Word.i32 at hp
  rw [hop0, hop2] at hp ⊢
  exact mem_renderLine (by omega) hp

/-- Settles O55: a write to CTRL with bit 0 set is the soft reset, and a line under way keeps or loses each of its
writes, which are those of `renderPoint`. -/
theorem softResetState : Obligations.SoftResetState := by
  intro s e v rest h hb
  have hstep : step s = .next (({ s with bus := rest }).writeCtrl v) :=
    (step_write (offset := Reg.ctrl.offset) hb h (Reg.offset_lt _)).trans (congrArg _ (hostWrite_ctrl _ v))
  refine ⟨fun hv => ?_, fun hv => ?_⟩
  · rw [hstep, State.writeCtrl, hv]
    rfl
  · let u : State := { s with bus := rest }
    refine ⟨u.softReset.mem, u.softReset.draws, ?_, fun hnot => softReset_mem_of_not_line (s := u) hnot, ?_⟩
    · rw [hstep, State.writeCtrl, if_pos hv]
      exact congrArg _ (softReset_eq u)
    · intro hp hcmd hcap h0 hlt hlen
      have hmem := softReset_mem_of_line (s := u) ⟨hp, hcmd, hcap, h0, hlt, hlen⟩
      refine ⟨fun x _ _ => ?_, fun a ha => ?_⟩
      · rcases word_keepLine s.resets (Config.lineKeepsNew s.draws) s.mem u.lineWrites x with hold | ⟨y, hy, hnew⟩
        · exact .inl (hmem ▸ hold)
        · exact .inr ⟨y, (mem_lineWrites (s := u) h0 hlt hy).2.2, hmem ▸ hnew⟩
      · refine (congrArg (fun m => Memory.byte m s.resets a) hmem).trans (byte_keepLine_ne _ _ _ a _ fun p hp => ?_)
        obtain ⟨hlow, hhigh, -⟩ : s.op0.toNat ≤ p.1 ∧ p.1 < s.op2.toNat ∧ _ := mem_lineWrites (s := u) h0 hlt hp
        unfold lineOffset at *
        omega

/-! ## The engine under a pending event -/

@[simp] theorem decodeField_encode (i : Instr) : decodeField (encode i).1 (encode i).2 = .ok i := by cases i <;> rfl

theorem decodeOpcode_error {op : Nat} (h : ∀ i, decodeOpcode op ≠ .ok i) :
    decodeOpcode op = .error (.unassignedOpcode op) := by
  unfold decodeOpcode at h ⊢
  split <;> simp_all

theorem decodePlan_eq_none {i : Instr} (h : i ∉ decodeCommands) : decodePlan i = none := by
  cases i with
  | decodeCodebook | decodeFloor | decodeResidue | decodeMapping | decodeMode | decodeTdt | decodeSetup =>
    exact absurd (by decide) h
  | _ => rfl

/-- The decode commands, each with its record's stage and its first point (R108 to R115, R364). -/
def decodeEntries : List (Instr × Stage × Point) :=
  [(.decodeCodebook, .codebook, .codebookSync), (.decodeTdt, .tdt, .tdtReserved), (.decodeFloor, .floor, .floorType),
   (.decodeResidue, .residue, .residueType), (.decodeMapping, .mapping, .mappingType),
   (.decodeMode, .mode, .modeBlockflag), (.decodeSetup, .codebook, .setupCount)]

theorem decodePlan_of_mem_decodeEntries : ∀ x ∈ decodeEntries,
    decodePlan x.1 =
        some (decide (x.1 = .decodeMapping ∨ x.1 = .decodeSetup), x.2.1, x.1 == .decodeSetup) ∧
      (if (x.1 == .decodeSetup) = true then Point.setupCount else firstPoint x.2.1) = x.2.2 := by
  decide

section
variable {s : State}

/-! ### The start checks of an entered decode command -/

theorem enterDecode_of_long (h : s.params.inCap < s.inLen.toNat) (mapped : Bool) (stage : Stage) (setup : Bool) :
    s.enterDecode mapped stage setup = s.afterError 15 8 s.inLen 0 := by
  have hcheck : s.decodeCheck mapped = some (8, s.inLen.toNat) := if_pos h
  simp [State.enterDecode, hcheck, State.violation_eq]

theorem enterDecode_of_no_channels (hlen : s.inLen.toNat ≤ s.params.inCap) (h : s.audioChannels = 0) (stage : Stage)
    (setup : Bool) : s.enterDecode true stage setup = s.afterError 15 7 0 0 := by
  have hcheck : s.decodeCheck true = some (7, 0) := by
    rw [State.decodeCheck, if_neg (by omega)]
    simp [State.channels, h]
  simp [State.enterDecode, hcheck, State.violation_eq]

theorem enterDecode_of_check {mapped : Bool} (h : s.decodeCheck mapped = none) (stage : Stage) (setup : Bool) :
    s.enterDecode mapped stage setup =
      { s with
        bitPos := if setup then 0 else s.bitPos
        parse := { ParseVars.none with
          point := if setup then .setupCount else firstPoint stage
          inSetup := setup
          stage := stage
          start := if setup then 0 else s.bitPos.toNat } } := by
  simp [State.enterDecode, h]

/-! ### A move, by what the engine stands at -/

theorem engineMove_command {i : Instr} (hpt : s.parse.point = .none) (hop : decodeOpcode s.cmd.toNat = .ok i)
    (hplan : decodePlan i = none) : s.engineMove.outcome = exec i s := by
  simp [State.engineMove, hpt, decodeField, hop, hplan, Turn.outcome]

theorem engineMove_decode {i : Instr} {mapped setup : Bool} {stage : Stage} (hpt : s.parse.point = .none)
    (hop : decodeOpcode s.cmd.toNat = .ok i) (hplan : decodePlan i = some (mapped, stage, setup)) :
    s.engineMove.outcome = .next (s.enterDecode mapped stage setup) := by
  simp [State.engineMove, hpt, decodeField, hop, hplan, Turn.outcome]

/-- A decode command at its start: refused by its start checks in their order (R411), or entered at its first field. -/
theorem engineMove_entry {i : Instr} {stage : Stage} {point : Point} {start : Word} (hpt : s.parse.point = .none)
    (hop : decodeOpcode s.cmd.toNat = .ok i) (hmem : (i, stage, point) ∈ decodeEntries)
    (hstart : start = if i = .decodeSetup then 0 else s.bitPos) :
    (s.params.inCap < s.inLen.toNat → s.engineMove.outcome = .next (s.afterError 15 8 s.inLen 0)) ∧
    (s.inLen.toNat ≤ s.params.inCap → (i = .decodeMapping ∨ i = .decodeSetup) → s.audioChannels = 0 →
      s.engineMove.outcome = .next (s.afterError 15 7 0 0)) ∧
    (s.inLen.toNat ≤ s.params.inCap → ((i = .decodeMapping ∨ i = .decodeSetup) → s.audioChannels ≠ 0) →
      s.engineMove.outcome = .next { s with
        bitPos := start
        parse := { ParseVars.none with
          point := point, inSetup := i == .decodeSetup, stage := stage, start := start.toNat } }) := by
  obtain ⟨hplan, hpoint⟩ := decodePlan_of_mem_decodeEntries _ hmem
  rw [engineMove_decode hpt hop hplan]
  refine ⟨fun hlen => ?_, fun hlen hmapped hch => ?_, fun hlen hch => ?_⟩
  · rw [enterDecode_of_long hlen]
  · rw [decide_eq_true hmapped, enterDecode_of_no_channels hlen hch]
  · rw [enterDecode_of_check (State.decodeCheck_none _ hlen fun hmapped => hch (of_decide_eq_true hmapped)), hpoint,
      hstart]
    by_cases hi : i = .decodeSetup <;> simp [hi]

theorem engineMove_unassigned (hpt : s.parse.point = .none) (hop : ∀ i, decodeOpcode s.cmd.toNat ≠ .ok i) :
    s.engineMove.outcome = .next (s.afterError 17 (s.cmd.zeroExtend 32) 0 0) := by
  simp [State.engineMove, hpt, decodeField, decodeOpcode_error hop, Turn.outcome, rejectError, State.raiseError_eq,
    ErrKind.code]

theorem engineMove_tag {i : Instr} {f : Field} {v : Nat} (hpt : pointField s.parse.point = some f)
    (henc : encode i = (f, v)) (hold : s.payload.holds s.bitPos.toNat [(f.width, v)] = true) :
    s.engineMove.outcome = exec i s := by
  have hne : s.parse.point ≠ .none := fun h => by simp [h, pointField] at hpt
  have hdec : decodeField f v = .ok i := by simpa [henc] using decodeField_encode i
  simp [State.engineMove, hne, State.engineField, hpt, read_of_holds hold, hdec, Turn.outcome]

end

/-- Settles O5: the step is the engine's move on the state with the event nearer, and the four clauses are the four
things a moving engine can stand at. -/
theorem stepMovesUnderPendingEvent : Obligations.StepMovesUnderPendingEvent := by
  intro s t k e rest hp hb ht
  subst ht
  rw [step_eq_outcome, nextTurn_move hp hb]
  exact ⟨fun i hpt hop hi => engineMove_command hpt hop (decodePlan_eq_none hi),
    fun hpt hop => engineMove_unassigned hpt hop,
    fun i stage point start hpt hop hmem hstart =>
      engineMove_entry (s := { s with bus := ⟨some k, e⟩ :: rest }) hpt hop hmem hstart,
    fun i f v hpt henc hold => engineMove_tag hpt henc hold⟩

end Sys2Proof.Machine

/-! # Memory: host events, the windows, and what an instruction reads (20_memory.md) -/

namespace Sys2Proof.Machine

/-- Settles O6: the turn of a landing event is the event, and an IDLE engine without one has the turn that stays. -/
theorem hostEventLands : Obligations.HostEventLands := by
  intro s e rest
  refine ⟨fun hb h => step_of_done (nextTurn_event hb h), fun hb hp => step_of_done ?_⟩
  simp [State.nextTurn, hb, hp]

/-! ## Malformed accesses -/

theorem accessOk_eq_false {width : Width} {offset : Nat} (h : width ≠ .word ∨ offset % 4 ≠ 0) :
    accessOk width offset = false := by
  unfold accessOk
  rcases h with h | h <;> simp [h]

theorem hostWrite_malformed {width : Width} {offset : Nat} (h : accessOk width offset = false) (s : State) (v : Word) :
    s.hostWrite width offset v = { s with hostFault := true } := if_pos h

theorem hostRead_malformed {width : Width} {offset : Nat} (h : accessOk width offset = false) (s : State) :
    s.hostRead width offset = { s.drawRead with hostFault := true } := if_pos h

/-- Settles O54: a malformed access is refused before the phase is looked at. -/
theorem malformedAccesses : Obligations.MalformedAccesses := by
  intro s e offset width v rest h ho hbad
  have hacc := accessOk_eq_false hbad
  refine ⟨fun hb => ?_, fun hb => ⟨Config.busDraw s.draws, s.draws + 1, ?_⟩⟩
  · rw [step_write hb h ho, hostWrite_malformed hacc]
  · rw [step_read hb h ho, hostRead_malformed hacc]
    rfl

/-! ## The words of the windows -/

/-- The offset of a whole word within the capacity of IN_MEM, VEC_MEM or LINE_BUF (R71). -/
def IsWindowWord (p : Params) (offset : Nat) : Prop :=
  (∃ k, offset = 0x10000000 + 4 * k ∧ 4 * k + 3 < p.inCap) ∨
    (∃ i < p.vecCap, offset = 0x1000 + 4 * i) ∨ (∃ i < p.lineCap, offset = 0x10000 + 4 * i)

theorem IsWindowWord.aligned {p : Params} {offset : Nat} (h : IsWindowWord p offset) : offset % 4 = 0 := by
  obtain ⟨k, rfl, -⟩ | ⟨i, -, rfl⟩ | ⟨i, -, rfl⟩ := h <;> omega

theorem IsWindowWord.lt {p : Params} {offset : Nat} (h : IsWindowWord p offset) (hp : p.wf) : offset < 2 ^ 32 := by
  obtain ⟨⟨-, hin⟩, ⟨-, hvec⟩, ⟨-, hline⟩, -⟩ := hp
  obtain ⟨k, rfl, hk⟩ | ⟨i, hi, rfl⟩ | ⟨i, hi, rfl⟩ := h <;> omega

section
variable {p : Params} {i : Nat}

theorem locate_vec (h : i < p.vecCap) : locate p (vecBase + 4 * i) = .vec i := by
  unfold locate vecBase
  rw [if_neg (by omega), if_pos (by omega)]
  congr 1
  omega

theorem locate_line (hp : p.wf) (h : i < p.lineCap) : locate p (lineOffset i) = .line i := by
  obtain ⟨-, ⟨-, hvec⟩, -⟩ := hp
  unfold locate lineOffset vecBase lineBase
  rw [if_neg (by omega), if_neg (by omega), if_pos (by omega)]
  congr 1
  omega

theorem locate_huff (hp : p.wf) (h : i < p.huffCap) {w : Nat} (hw : w < 4) :
    locate p (huffBase + 16 * i + 4 * w) = .huff i w := by
  obtain ⟨-, ⟨-, hvec⟩, ⟨-, hline⟩, -⟩ := hp
  unfold locate vecBase lineBase huffBase
  rw [if_neg (by omega), if_neg (by omega), if_neg (by omega), if_pos (by omega)]
  congr 1 <;> omega

theorem locate_recWord (hp : p.wf) (h : i < 0x400000) : locate p (recBase + 4 * i) = .recWord i := by
  obtain ⟨-, ⟨-, hvec⟩, ⟨-, hline⟩, ⟨-, hhuff⟩, -⟩ := hp
  unfold locate vecBase lineBase huffBase recBase
  rw [if_neg (by omega), if_neg (by omega), if_neg (by omega), if_neg (by omega), if_pos (by omega)]
  congr 1
  omega

theorem locate_inMem (hp : p.wf) (h : i < p.inCap) : locate p (inBase + i) = .inMem i := by
  obtain ⟨-, ⟨-, hvec⟩, ⟨-, hline⟩, ⟨-, hhuff⟩, -⟩ := hp
  unfold locate vecBase lineBase huffBase recBase inBase
  rw [if_neg (by omega), if_neg (by omega), if_neg (by omega), if_neg (by omega), if_neg (by omega),
    if_pos (by omega), Nat.add_sub_cancel_left]

end

/-- A word within IN_CAP is stored whole (R73). -/
theorem storeInByte_word {p : Params} {i : Nat} (h : i + 3 < p.inCap) (m : Memory) (v : Word) :
    [0, 1, 2, 3].foldl (storeInByte p i v) m = m.setWord (inBase + i) v := by
  have hlane (m : Memory) {j : Nat} (hj : j ≤ 3) :
      storeInByte p i v m j = m.set (inBase + i + j) (lane v j) := if_pos (by omega)
  simp [hlane, Memory.setWord]

/-- A word within IN_CAP is read whole (R73). -/
theorem readLoc_inMem {s : State} {i : Nat} (h : i + 3 < s.params.inCap) :
    s.readLoc (.inMem i) = s.wordAt (inBase + i) := by
  have hbyte {k : Nat} (hk : k ≤ i + 3) : s.inByte k = s.byteAt (inBase + k) := if_pos (by omega)
  rw [State.readLoc, hbyte (by omega), hbyte (by omega), hbyte (by omega), hbyte (by omega)]
  rfl

theorem writeLoc_windowWord {s : State} {offset : Nat} (hp : s.params.wf) (h : IsWindowWord s.params offset)
    (v : Word) :
    s.writeLoc v (locate s.params offset) = { s with mem := s.mem.setWord offset v } := by
  obtain ⟨k, rfl, hk⟩ | ⟨i, hi, rfl⟩ | ⟨i, hi, rfl⟩ := h
  · rw [show 0x10000000 + 4 * k = inBase + 4 * k from rfl, locate_inMem hp (by omega), State.writeLoc,
      storeInByte_word hk]
  · exact congrArg (s.writeLoc v) (locate_vec hi)
  · exact congrArg (s.writeLoc v) (locate_line hp hi)

theorem readLoc_windowWord {s : State} {offset : Nat} (hp : s.params.wf) (h : IsWindowWord s.params offset) :
    s.readLoc (locate s.params offset) = s.wordAt offset := by
  obtain ⟨k, rfl, hk⟩ | ⟨i, hi, rfl⟩ | ⟨i, hi, rfl⟩ := h
  · rw [show 0x10000000 + 4 * k = inBase + 4 * k from rfl, locate_inMem hp (by omega), readLoc_inMem hk]
  · exact congrArg s.readLoc (locate_vec hi)
  · exact congrArg s.readLoc (locate_line hp hi)

/-- Settles O50: at a whole word of a window the host writes and reads the memory's word. -/
theorem windowWordWriteAndRead : Obligations.WindowWordWriteAndRead := by
  intro s w w' v rest offset hphase (h : IsWindowWord s.params offset) hp hb
  let m := s.mem.setWord offset v
  let t : State := { s with bus := ⟨w', .read (s.params.base + offset) .word⟩ :: rest, mem := m }
  have hwrite : step s = .next t := by
    rw [step_write_idle hphase hb h.aligned (h.lt hp)]
    exact congrArg _ (writeLoc_windowWord (s := { s with bus := t.bus }) hp h v)
  have hread : step t = .next { t with bus := rest, readData := v } := by
    rw [step_read_idle (s := t) hphase rfl h.aligned (h.lt hp),
      readLoc_windowWord (s := { t with bus := rest }) hp h]
    exact congrArg (fun x => Host.Outcome.next { t with bus := rest, readData := x })
      (Memory.word_setWord s.mem s.resets offset v)
  have hbyte (a : Nat) : t.byteAt a = if offset ≤ a ∧ a < offset + 4 then lane v (a - offset) else s.byteAt a :=
    Memory.byte_setWord s.mem s.resets offset a v
  refine ⟨m, t, hwrite, rfl, hread, fun j hj => ?_, fun a ha => ?_⟩
  · rw [hbyte, if_pos (by omega), Nat.add_sub_cancel_left]
    rfl
  · rw [hbyte, if_neg (by omega)]

/-! ## HUFF_WORK and REC_STORE as the host reads them -/

/-- Nodes at or beyond HUFF_COUNT read as zero words (R75). -/
theorem huffWord_of_length_le {s : State} {i : Nat} (h : s.huffWork.length ≤ i) (k : Nat) : s.huffWord i k = 0 := by
  simp [State.huffWord, List.getElem?_eq_none h]

/-- The four words of a node, as R75 lists them. -/
def nodeWords : HuffNode → List Word
  | .leaf x => [1, 0xFFFFFFFF, 0xFFFFFFFF, x]
  | .internal l r =>
    [BitVec.ofNat 32 ((if l.isSome then 2 else 0) + (if r.isSome then 4 else 0)), childWord l, childWord r, 0]

theorem nodeWords_getElem? (n : HuffNode) {k : Nat} (hk : k < 4) : (nodeWords n)[k]? = some (nodeWord n k) := by
  obtain rfl | rfl | rfl | rfl : k = 0 ∨ k = 1 ∨ k = 2 ∨ k = 3 := by omega
  all_goals cases n <;> rfl

theorem huffWord_of_getElem? {s : State} {i k : Nat} {n : HuffNode} {v : Word} (hn : s.huffWork[i]? = some n)
    (hk : k < 4) (hv : (nodeWords n)[k]? = some v) : s.huffWord i k = v := by
  rw [nodeWords_getElem? n hk] at hv
  simpa [State.huffWord, hn] using hv

/-- Settles O52: a word of HUFF_WORK's window is `nodeWord` of its node, and an empty store has zero words. -/
theorem huffWindowReads : Obligations.HuffWindowReads := by
  intro s w rest i k v hphase hp
  refine ⟨fun hi hk hb hnone hleaf hinternal => ?_, fun hrec hk hb => ?_⟩
  · obtain ⟨-, -, -, ⟨-, hcap⟩, -⟩ := id hp
    rw [step_read_idle hphase hb (by omega) (by omega)]
    rw [show locate s.params (0x100000 + 16 * i + 4 * k) = .huff i k from locate_huff hp hi hk]
    suffices hword : s.huffWord i k = v by rw [← hword]; rfl
    cases hn : s.huffWork[i]? with
    | none =>
      have hlen := List.getElem?_eq_none_iff.mp hn
      rw [huffWord_of_length_le hlen, hnone hlen]
    | some n =>
      refine huffWord_of_getElem? hn hk ?_
      cases n with
      | leaf x => exact hleaf x hn
      | internal l r => exact hinternal l r hn
  · rw [step_read_idle hphase hb (by omega) (by omega)]
    rw [show locate s.params (0x1000000 + 4 * k) = .recWord k from locate_recWord hp hk]
    simp [State.readLoc, hrec]

end Sys2Proof.Machine

/-! # What an instruction reads of the memory (20_memory.md R91) -/

namespace Sys2Proof.Machine

/-! ## The payload

Every decoder reads the payload by `read` alone, and the trailing check by its length. -/

/-- Two payloads with the same bytes `0..IN_LEN`. -/
structure Payload.Agrees (p r : Payload) : Prop where
  len : p.len = r.len
  byte : ∀ k < r.len, p.mem.byte p.epoch (inBase + k) = r.mem.byte r.epoch (inBase + k)

theorem Payload.Agrees.bit {p r : Payload} (h : p.Agrees r) {q : Nat} (hq : q < 8 * r.len) : p.bit q = r.bit q := by
  rw [Payload.bit, h.byte _ (by omega), ← Payload.bit]

theorem Payload.Agrees.read {p r : Payload} (h : p.Agrees r) (n : Nat) : read p n = read r n := by
  funext c
  obtain ⟨hr, rfl | hfit⟩ | ⟨hr, hn, hlong⟩ := read_cases r n c
  · rfl
  · rw [hr, read_of_fits (h.len ▸ hfit), Payload.field_congr fun k hk => h.bit (by omega)]
  · rw [hr, read_of_short hn (h.len ▸ hlong)]

section
variable {p r : Payload} (h : p.Agrees r)
include h

/-! ### The decoders -/

theorem flag_congr : flag p = flag r := by
  simp only [flag, h.read]

theorem codebookSync_congr : codebookSync p = codebookSync r := by
  simp only [codebookSync, h.read]

theorem lengthEntry_congr (sparse : Bool) : lengthEntry p sparse = lengthEntry r sparse := by
  simp only [lengthEntry, h.read, flag_congr h]

theorem orderedField_congr (entries entry length : Nat) :
    orderedField p entries entry length = orderedField r entries entry length := by
  simp only [orderedField, h.read]

theorem orderedRuns_congr (entries room entry : Nat) :
    orderedRuns p entries room entry = orderedRuns r entries room entry := by
  induction room generalizing entry with
  | zero => simp only [orderedRuns, orderedField_congr h]
  | succ room ih => simp only [orderedRuns, orderedField_congr h, ih]

theorem codebookTable_congr (params : Params) : codebookTable params p = codebookTable params r := by
  simp only [codebookTable, codebookSizes, unorderedTable, h.read, flag_congr h, orderedRuns_congr h,
    lengthEntry_congr h]

theorem vectorTable_congr (params : Params) (lookupType entries dimensions : Nat) :
    vectorTable params p lookupType entries dimensions = vectorTable params r lookupType entries dimensions := by
  simp only [vectorTable, floatField, h.read, flag_congr h]

theorem decodeCodebook_congr (params : Params) : decodeCodebook params p = decodeCodebook params r := by
  simp only [decodeCodebook, codebookLookup, h.read, codebookSync_congr h, codebookTable_congr h, vectorTable_congr h]

theorem decodeFloor0_congr : decodeFloor0 p = decodeFloor0 r := by
  simp only [decodeFloor0, h.read]

theorem xValues_congr (rangebits : Nat) (classes : List FloorClass) (classList : List Nat) :
    xValues p rangebits classes classList = xValues r rangebits classes classList := by
  induction classList with
  | nil => rfl
  | cons c rest ih => simp only [xValues, h.read, ih]

theorem decodeFloor1_congr : decodeFloor1 p = decodeFloor1 r := by
  simp only [decodeFloor1, decodeFloorClass, h.read, xValues_congr h]

theorem decodeFloor_congr : decodeFloor p = decodeFloor r := by
  simp only [decodeFloor, h.read, decodeFloor0_congr h, decodeFloor1_congr h]

theorem bookRows_congr (cascade : List Nat) : bookRows p cascade = bookRows r cascade := by
  induction cascade with
  | nil => rfl
  | cons c rest ih => simp only [bookRows, bookRow, h.read, ih]

theorem residueBody_congr (residueType : Nat) : residueBody p residueType = residueBody r residueType := by
  simp only [residueBody, cascadeByte, h.read, flag_congr h, bookRows_congr h]

theorem decodeResidue_congr : decodeResidue p = decodeResidue r := by
  simp only [decodeResidue, h.read, residueBody_congr h]

theorem decodeMapping_congr (ch : Nat) : decodeMapping p ch = decodeMapping r ch := by
  simp only [decodeMapping, mappingType, mappingCoupling, couplingPair, mappingReserved, mappingMux, muxValue,
    submapRecord, h.read, flag_congr h]

theorem decodeMode_congr : decodeMode p = decodeMode r := by
  simp only [decodeMode, modeWindow, modeTransform, h.read, flag_congr h]

theorem decodeTdt_congr : decodeTdt p = decodeTdt r := by
  simp only [decodeTdt, h.read]

theorem trailingCheck_congr : trailingCheck p = trailingCheck r := by
  unfold trailingCheck
  rw [h.len]

theorem decodeSetup_congr (params : Params) (ch : Nat) : decodeSetup params p ch = decodeSetup params r ch := by
  simp only [decodeSetup, decodeList, setupFraming, h.read, flag_congr h, decodeCodebook_congr h, decodeTdt_congr h,
    decodeFloor_congr h, decodeResidue_congr h, decodeMapping_congr h, decodeMode_congr h, trailingCheck_congr h]

theorem consume_congr (n : Nat) : consume p n = consume r n := by
  simp only [consume, h.read]

end

/-! ## The vector -/

theorem neighborScan_lt {v : Nat → Nat} {fits : Nat → Bool} {beats : Nat → Nat → Bool} {n b : Nat}
    (h : neighborScan v fits beats n = some b) : b < n := by
  induction n generalizing b with
  | zero => simp [neighborScan] at h
  | succ n ih =>
    rw [neighborScan] at h
    cases hscan : neighborScan v fits beats n with
    | none =>
      obtain ⟨-, rfl⟩ : fits (v n) = true ∧ n = b := by simpa [hscan] using h
      exact Nat.lt_succ_self n
    | some a =>
      have ha := ih hscan
      simp only [hscan] at h
      split at h
      · exact Option.some.inj h ▸ Nat.lt_succ_self n
      · exact Option.some.inj h ▸ Nat.lt_succ_of_lt ha

/-- The search looks at elements below `n` only. -/
theorem neighborScan_congr {v w : Nat → Nat} (fits : Nat → Bool) (beats : Nat → Nat → Bool) {n : Nat}
    (h : ∀ k < n, v k = w k) : neighborScan v fits beats n = neighborScan w fits beats n := by
  induction n with
  | zero => rfl
  | succ n ih =>
    rw [neighborScan, neighborScan, ih fun k hk => h k (by omega), h n (by omega)]
    cases hb : neighborScan w fits beats n with
    | none => rfl
    | some b => simp only [h b (Nat.lt_succ_of_lt (neighborScan_lt hb))]

theorem lowNeighbor_congr {v w : Nat → Nat} {x : Nat} (h : ∀ k ≤ x, v k = w k) :
    lowNeighbor v x = lowNeighbor w x := by
  unfold lowNeighbor
  rw [h x (Nat.le_refl x), neighborScan_congr _ _ fun k hk => h k (Nat.le_of_lt hk)]

theorem highNeighbor_congr {v w : Nat → Nat} {x : Nat} (h : ∀ k ≤ x, v k = w k) :
    highNeighbor v x = highNeighbor w x := by
  unfold highNeighbor
  rw [h x (Nat.le_refl x), neighborScan_congr _ _ fun k hk => h k (Nat.le_of_lt hk)]

/-! ## An instruction on another memory -/

/-- The state with another memory. -/
def State.withMem (s : State) (m : Memory) : State := { s with mem := m }

@[simp] theorem withMem_params (s : State) (m : Memory) : (s.withMem m).params = s.params := rfl
@[simp] theorem withMem_bitPos (s : State) (m : Memory) : (s.withMem m).bitPos = s.bitPos := rfl
@[simp] theorem withMem_op0 (s : State) (m : Memory) : (s.withMem m).op0 = s.op0 := rfl
@[simp] theorem withMem_op1 (s : State) (m : Memory) : (s.withMem m).op1 = s.op1 := rfl
@[simp] theorem withMem_op2 (s : State) (m : Memory) : (s.withMem m).op2 = s.op2 := rfl
@[simp] theorem withMem_op3 (s : State) (m : Memory) : (s.withMem m).op3 = s.op3 := rfl
@[simp] theorem withMem_op4 (s : State) (m : Memory) : (s.withMem m).op4 = s.op4 := rfl
@[simp] theorem withMem_huffWork (s : State) (m : Memory) : (s.withMem m).huffWork = s.huffWork := rfl
@[simp] theorem withMem_parse (s : State) (m : Memory) : (s.withMem m).parse = s.parse := rfl

section
variable {s : State} {m : Memory}

theorem endDecode_withMem (start : Nat) (x : EStateM.Result Raise Cursor Record) :
    (s.withMem m).endDecode start x = (s.endDecode start x).withMem m := by
  cases x <;> rfl

theorem runDecode_withMem {d d' : Parser Record} (hd : d' = d) (mapped : Bool) (start : Nat) (ctx : ErrCtx) :
    (s.withMem m).runDecode mapped start ctx d' = (s.runDecode mapped start ctx d).withMem m := by
  subst hd
  have hcheck : (s.withMem m).decodeCheck mapped = s.decodeCheck mapped := rfl
  rw [State.runDecode, State.runDecode, hcheck]
  cases s.decodeCheck mapped with
  | some => rfl
  | none => exact endDecode_withMem _ _

theorem applyField_withMem {f f' : Parser Progress} (hf : f' = f) :
    (s.withMem m).applyField f' = (s.applyField f).withMem m := by
  subst hf
  simp only [State.applyField, withMem_bitPos, withMem_parse]
  cases f' ⟨s.bitPos.toNat, s.parse.ctx⟩ with
  | ok g c => cases g <;> rfl
  | error => rfl

/-- Both outcomes are a next state, the same but for the memory. -/
def SameButMem (x y : Host.Outcome State Fault Refusal) : Prop := ∃ t m, x = .next t ∧ y = .next (t.withMem m)

theorem SameButMem.of_eq {x y t : State} (hx : x = t) (hy : y = t.withMem m) : SameButMem (.next x) (.next y) :=
  ⟨t, m, congrArg _ hx, congrArg _ hy⟩

theorem SameButMem.next {x y : State} (h : y = x.withMem m) : SameButMem (.next x) (.next y) := .of_eq rfl h

/-! ### The commands, by what their checks and searches answer -/

theorem ite_withMem {c : Prop} [Decidable c] {a a' b b' : State} (ha : a' = a.withMem m)
    (hb : ¬ c → b' = b.withMem m) : (if c then a' else b') = (if c then a else b).withMem m := by
  split
  · exact ha
  next hc => exact hb hc

theorem execReadBits_withMem (h : (s.withMem m).payload.Agrees s.payload) :
    SameButMem (execReadBits s) (execReadBits (s.withMem m)) := by
  refine .next <| ite_withMem rfl fun _ => ite_withMem rfl fun _ => ?_
  simp only [h.read, withMem_op0, withMem_bitPos]
  cases read s.payload s.op0.toNat ⟨s.bitPos.toNat, ErrCtx.none⟩ <;> rfl

theorem execFloat32Unpack_withMem : SameButMem (execFloat32Unpack s) (execFloat32Unpack (s.withMem m)) := by
  refine .next (m := m) ?_
  simp only [withMem_op0]
  cases float32Unpack s.op0 <;> rfl

theorem execLookup1Values_withMem : SameButMem (execLookup1Values s) (execLookup1Values (s.withMem m)) := by
  refine .next (m := m) ?_
  simp only [withMem_op0, withMem_op1]
  cases lookup1Values s.op0.toNat s.op1.toNat <;> rfl

theorem neighbor_withMem {search : (Nat → Nat) → Nat → Option Nat}
    (hsearch : s.op0.toNat < s.vecLen.toNat →
      search (s.withMem m).vecElem s.op0.toNat = search s.vecElem s.op0.toNat) (which : Nat) :
    (s.withMem m).neighbor search which = (s.neighbor search which).withMem m := by
  refine ite_withMem rfl fun _ => ite_withMem rfl fun hx => ?_
  rw [withMem_op0, hsearch (Nat.lt_of_not_ge hx)]
  cases search s.vecElem s.op0.toNat <;> rfl

theorem execRenderPoint_withMem : SameButMem (execRenderPoint s) (execRenderPoint (s.withMem m)) := by
  refine .next (m := m) ?_
  simp only [withMem_op0, withMem_op1, withMem_op2, withMem_op3, withMem_op4]
  cases renderPoint s.op0.i32 s.op1.i32 s.op2.i32 s.op3.i32 s.op4.i32 with
  | none => rfl
  | some y => exact ite_withMem rfl fun _ => rfl

theorem execHuffAddNode_withMem : SameButMem (execHuffAddNode s) (execHuffAddNode (s.withMem m)) := by
  refine .next <| ite_withMem rfl fun _ => ?_
  simp only [withMem_params, withMem_op0, withMem_op1, withMem_huffWork]
  cases addNode s.huffWork s.op0.toNat s.op1 with
  | none => rfl
  | some r => exact ite_withMem rfl fun _ => rfl

/-- RENDER_LINE writes the same elements into either memory. -/
theorem execRenderLine_withMem : SameButMem (execRenderLine s) (execRenderLine (s.withMem m)) := by
  by_cases hlen : s.lineLen.toNat > s.params.lineCap
  · exact .of_eq (m := m) (if_pos hlen) (if_pos hlen)
  by_cases hline : s.lineInBounds = true
  · exact .of_eq (m := writeLine m s.lineWrites) ((if_neg hlen).trans (if_pos hline))
      ((if_neg hlen).trans (if_pos hline))
  · exact .of_eq (m := m) ((if_neg hlen).trans (if_neg hline)) ((if_neg hlen).trans (if_neg hline))

/-! ### Every instruction -/

theorem passTag_withMem (h : (s.withMem m).payload.Agrees s.payload) (f : Field) (v : ParseVars) :
    (s.withMem m).passTag f v = (s.passTag f v).withMem m :=
  applyField_withMem (by rw [consume_congr h])

theorem lookupTag_withMem (h : (s.withMem m).payload.Agrees s.payload)
    {table table' : Parser (Option VectorLookupTable)} (ht : table' = table) (lookupType : Nat) :
    (s.withMem m).lookupTag lookupType table' = (s.lookupTag lookupType table).withMem m :=
  applyField_withMem (by rw [consume_congr h, ht, withMem_parse])

theorem recordTag_withMem (h : (s.withMem m).payload.Agrees s.payload) {rest rest' : Parser Record}
    (hr : rest' = rest) (f : Field) : (s.withMem m).recordTag f rest' = (s.recordTag f rest).withMem m :=
  applyField_withMem (by rw [consume_congr h, hr, withMem_parse])

/-- On another memory that agrees on the payload and the vector an instruction answers the same, but for the memory. -/
theorem exec_withMem (i : Instr) (h : (s.withMem m).payload.Agrees s.payload)
    (hvec : ∀ k < s.vecLen.toNat, (s.withMem m).vecElem k = s.vecElem k) :
    SameButMem (exec i s) (exec i (s.withMem m)) := by
  cases i with
  | renderLine => exact execRenderLine_withMem
  | readBits => exact execReadBits_withMem h
  | ilog | huffClear => exact .next (m := m) rfl
  | float32Unpack => exact execFloat32Unpack_withMem
  | lookup1Values => exact execLookup1Values_withMem
  | lowNeighbor =>
    exact .next (neighbor_withMem (fun hx => lowNeighbor_congr fun k hk => hvec k (by omega)) _)
  | highNeighbor =>
    exact .next (neighbor_withMem (fun hx => highNeighbor_congr fun k hk => hvec k (by omega)) _)
  | renderPoint => exact execRenderPoint_withMem
  | huffAddNode => exact execHuffAddNode_withMem
  | decodeCodebook => exact .next (runDecode_withMem (congrArg _ (decodeCodebook_congr h _)) _ _ _)
  | decodeFloor => exact .next (runDecode_withMem (congrArg _ (decodeFloor_congr h)) _ _ _)
  | decodeResidue => exact .next (runDecode_withMem (congrArg _ (decodeResidue_congr h)) _ _ _)
  | decodeMapping => exact .next (runDecode_withMem (congrArg _ (decodeMapping_congr h _)) _ _ _)
  | decodeMode => exact .next (runDecode_withMem (congrArg _ (decodeMode_congr h)) _ _ _)
  | decodeTdt => exact .next (runDecode_withMem (congrArg _ (decodeTdt_congr h)) _ _ _)
  | decodeSetup => exact .next (runDecode_withMem (congrArg _ (decodeSetup_congr h _ _)) _ _ _)
  | codebookSync | mappingType0 | mappingReserved | modeWindowType0 | modeTransformType0 =>
    exact .next (passTag_withMem h _ _)
  | codebookLookupNone => exact .next (lookupTag_withMem h rfl _)
  | codebookLookupType1 | codebookLookupType2 =>
    exact .next (lookupTag_withMem h (congrArg _ (vectorTable_congr h _ _ _ _)) _)
  | floorType0 => exact .next (recordTag_withMem h (congrArg _ (decodeFloor0_congr h)) _)
  | floorType1 => exact .next (recordTag_withMem h (congrArg _ (decodeFloor1_congr h)) _)
  | residueType0 | residueType1 | residueType2 =>
    exact .next (recordTag_withMem h (congrArg _ (residueBody_congr h _)) _)
  | tdtReserved => exact .next (recordTag_withMem h rfl _)
  | setupFraming =>
    exact .next (applyField_withMem (by rw [consume_congr h, trailingCheck_congr h, withMem_parse]))

end

/-- Settles O47: the decoders read the payload by `read`, the neighbor searches look at elements up to OP0, and no
other instruction looks at the memory. -/
theorem onlyValidInputIsRead : Obligations.OnlyValidInputIsRead := by
  intro i s t m hpayload hvec hexec
  obtain ⟨u, m', hs, hm⟩ := exec_withMem i (s := s) (m := m) ⟨rfl, hpayload⟩ hvec
  obtain rfl : u = t := Host.Outcome.next.inj (hs.symm.trans hexec)
  exact ⟨m', hm⟩

end Sys2Proof.Machine

/-! # Decoding, and what the encoder gives is run (30_encoding.md) -/

namespace Sys2Proof.Machine

/-! ## The encoding tables -/

theorem encode_of_decodeOpcode {op : Nat} {i : Instr} (h : decodeOpcode op = .ok i) : encode i = (.command, op) := by
  unfold decodeOpcode at h
  split at h <;> cases h <;> rfl

/-- A field with one legal value answers its instruction at that value only. -/
theorem oneValue_eq_ok {v w : Nat} {i j : Instr} {r : Reject}
    (h : (if v = w then Except.ok i else .error r) = .ok j) : v = w ∧ i = j := by
  split at h
  next hv => exact ⟨hv, Except.ok.inj h⟩
  · cases h

theorem encode_of_decodeField {f : Field} {v : Nat} {i : Instr} (h : decodeField f v = .ok i) : encode i = (f, v) := by
  cases f with
  | command => exact encode_of_decodeOpcode h
  | codebookLookup | floorType | residueType =>
    simp only [decodeField] at h
    split at h <;> cases h <;> rfl
  | codebookSync | mappingType | mappingReserved | modeWindow | modeTransform | tdtReserved | setupFraming =>
    obtain ⟨rfl, rfl⟩ := oneValue_eq_ok h
    rfl

/-- Settles O1: each accepted value is the encoding of what it is read as, and each encoding is accepted. -/
theorem decodeFieldIffEncode : Obligations.DecodeFieldIffEncode := by
  refine fun f v i => ⟨encode_of_decodeField, fun h => ?_⟩
  have hdec := decodeField_encode i
  rwa [h] at hdec

/-- The opcodes R102 assigns. -/
theorem opcode_range {i : Instr} {op : Nat} (h : encode i = (.command, op)) :
    (0x01 ≤ op ∧ op ≤ 0x0A) ∨ (0x10 ≤ op ∧ op ≤ 0x15) ∨ op = 0x20 := by
  cases i <;> cases h <;> decide

/-- Settles O2: the table row by row, and no encoding has an opcode outside it. -/
theorem opcodeMap : Obligations.OpcodeMap := by
  refine ⟨rfl, rfl, rfl, rfl, rfl, rfl, rfl, rfl, rfl, rfl, rfl, rfl, rfl, rfl, rfl, rfl, rfl, fun op hop => ?_⟩
  refine decodeOpcode_error fun i hi => ?_
  have hrange := opcode_range (encode_of_decodeOpcode hi)
  rw [← BitVec.toNat_inj, show (0x00 : Byte).toNat = 0 from rfl] at hop
  omega

/-! ## A turn of the engine, by what it stands at -/

section
variable {s : State} {i : Instr} {f : Field} {v : Nat} {r : Reject}

theorem engineTurn_command (hpt : s.parse.point = .none) (hop : decodeOpcode s.cmd.toNat = .ok i) :
    s.engineTurn = .run i s := by
  simp [State.engineTurn, hpt, decodeField, hop]

theorem engineTurn_unassigned (hpt : s.parse.point = .none) (hop : ∀ i, decodeOpcode s.cmd.toNat ≠ .ok i) :
    s.engineTurn = .done (s.afterError 17 (s.cmd.zeroExtend 32) 0 0) := by
  simp [State.engineTurn, hpt, decodeField, decodeOpcode_error hop, rejectError, State.raiseError_eq, ErrKind.code]

/-- Where the next field is a fixed value, the engine's turn is that field. -/
theorem engineTurn_field (hpt : pointField s.parse.point = some f) : s.engineTurn = s.engineField :=
  if_neg fun h => by simp [h, pointField] at hpt

/-- A whole field with an instruction's value is that instruction (R116). -/
theorem engineTurn_tag (hpt : pointField s.parse.point = some f)
    (hold : s.payload.holds s.bitPos.toNat [(f.width, v)] = true) (hdec : decodeField f v = .ok i) :
    s.engineTurn = .run i s := by
  simp [engineTurn_field hpt, State.engineField, hpt, read_of_holds hold, hdec]

/-- A whole field with another value ends the command, the cursor after the field (R116, R153(d)). -/
theorem engineTurn_reject (hpt : pointField s.parse.point = some f)
    (hold : s.payload.holds s.bitPos.toNat [(f.width, v)] = true) (hdec : decodeField f v = .error r) :
    s.engineTurn = .done (({ s with bitPos := Word.low (s.bitPos.toNat + f.width) }).afterError
      (rejectError r).kind.code (Word.low (rejectError r).info) (Word.low (rejectError r).aux) s.parse.ctx.word) := by
  simp [engineTurn_field hpt, State.engineField, hpt, read_of_holds hold, hdec]

end

/-- Settles O8: the turn of an opcode that decodes to nothing is the error completion. -/
theorem unassignedOpcodeRaises : Obligations.UnassignedOpcodeRaises := by
  intro s hp hpt hquiet hop
  exact step_of_done ((nextTurn_engine hp hquiet).trans (engineTurn_unassigned hpt hop))

/-- Settles O9: the decoder rejects the value, and the engine's turn is the field's error. -/
theorem illegalFieldValueRaises : Obligations.IllegalFieldValueRaises := by
  intro s f v hp hquiet hpt hold
  have raises {r : Reject} (hdec : decodeField f v = .error r) :=
    step_of_done ((nextTurn_engine hp hquiet).trans (engineTurn_reject hpt hold hdec))
  refine ⟨?_, ?lookup, ?floor, ?residue, ?_, ?_, ?_, ?_, ?_, ?_⟩ <;> rintro rfl hv
  case lookup | floor | residue =>
    obtain ⟨k, rfl⟩ := Nat.exists_eq_add_of_le' hv
    exact raises rfl
  all_goals exact raises (if_neg (by omega))

/-! ## An instruction laid out at its place -/

/-- Bit `k` of bytes that `storePayload` stored is bit `k` of the value (R77, R78). -/
theorem bit_storePayload (m : Memory) (epoch len value : Nat) {n k : Nat} (hk : k < 8 * n) :
    Payload.bit ⟨storePayload m value n 0, epoch, len⟩ k = value.testBit k := by
  rw [Payload.bit, byte_storePayload, if_pos (by omega), show inBase + k / 8 - (inBase + 0) = k / 8 by omega]
  rw [BitVec.getLsbD_ofNat, show 256 = 2 ^ 8 from rfl, ← Nat.pow_mul, Nat.testBit_div_two_pow,
    decide_eq_true (Nat.mod_lt k (by decide)), Bool.true_and, Nat.mod_add_div]

/-- A value that fits its width reads back from the bytes it was stored in. -/
theorem field_storePayload (m : Memory) (epoch len : Nat) {value n width : Nat} (hw : width ≤ 8 * n)
    (hv : value < 2 ^ width) : Payload.field ⟨storePayload m value n 0, epoch, len⟩ 0 width = value := by
  apply Nat.eq_of_testBit_eq
  intro k
  rw [Payload.testBit_field, Nat.zero_add]
  by_cases hk : k < width
  · rw [bit_storePayload _ _ _ _ (by omega), decide_eq_true hk, Bool.true_and]
  · rw [decide_eq_false hk, Bool.false_and,
      Nat.testBit_lt_two_pow (Nat.lt_of_lt_of_le hv (Nat.pow_le_pow_right (by decide) (Nat.le_of_not_lt hk)))]

/-- The encoding of an instruction fits its field's width. -/
theorem encode_lt (i : Instr) : (encode i).2 < 2 ^ (encode i).1.width := by cases i <;> decide

/-- The payload bytes of a placed tag: enough for its field, and no whole byte after the framing bit's. -/
def tagBytes (f : Field) : Nat := if f = .setupFraming then 1 else 16

theorem width_le_tagBytes (f : Field) : f.width ≤ 8 * tagBytes f := by cases f <;> decide

section
variable (s : State) {f : Field} {value : Nat}

theorem pointField_fieldPlace (hf : f ≠ .command) : pointField (fieldPlace f).1 = some f := by
  cases f with
  | command => exact absurd rfl hf
  | _ => rfl

/-- The next turn of a placed instruction is the engine's: no host event is pending. -/
theorem nextTurn_placeInstr : (s.placeInstr f value).nextTurn = (s.placeInstr f value).engineTurn := by
  have hplace : (s.placeInstr f value).phase = .busy ∧ (s.placeInstr f value).bus = [] := by
    unfold State.placeInstr
    split <;> exact ⟨rfl, rfl⟩
  obtain ⟨hp, hb⟩ := hplace
  exact nextTurn_engine hp fun e he => by simp [hb] at he

theorem placeInstr_command :
    s.placeInstr .command value = ({ s with bus := [] }).startCommand (BitVec.ofNat 8 value) := rfl

theorem placeInstr_tag_point (hf : f ≠ .command) : (s.placeInstr f value).parse.point = (fieldPlace f).1 := by
  simp [State.placeInstr, hf]

/-- A placed tag's field holds its value. -/
theorem placeInstr_tag_holds (hf : f ≠ .command) (hv : value < 2 ^ f.width) :
    (s.placeInstr f value).payload.holds (s.placeInstr f value).bitPos.toNat [(f.width, value)] = true := by
  have hpos : (s.placeInstr f value).bitPos.toNat = 0 := by simp [State.placeInstr, hf]
  have hpayload : (s.placeInstr f value).payload =
      ⟨storePayload s.mem value (tagBytes f) 0, s.resets, tagBytes f⟩ := by
    unfold State.placeInstr tagBytes
    rw [if_neg hf]
    split <;> rfl
  have hwidth := width_le_tagBytes f
  simp [hpos, hpayload, Payload.holds, field_storePayload _ _ _ hwidth hv, hwidth]

theorem engineTurn_placeInstr {i : Instr} (hdec : decodeField f value = .ok i) (hv : value < 2 ^ f.width) :
    (s.placeInstr f value).engineTurn = .run i (s.placeInstr f value) := by
  by_cases hf : f = .command
  · subst hf
    have hcmd : (BitVec.ofNat 8 value).toNat = value := Nat.mod_eq_of_lt hv
    exact engineTurn_command rfl (by rwa [placeInstr_command, State.startCommand_cmd, hcmd])
  · exact engineTurn_tag (by rw [placeInstr_tag_point s hf, pointField_fieldPlace hf]) (placeInstr_tag_holds s hf hv)
      hdec

end

/-- Settles O3: the placed state's turn is the engine's, which decodes the encoding back to its instruction. -/
theorem encodedInstructionIsFetched : Obligations.EncodedInstructionIsFetched := by
  intro i s
  exact step_of_run ((nextTurn_placeInstr s).trans (engineTurn_placeInstr s (decodeField_encode i) (encode_lt i)))

/-! ## The frame of an instruction, by class -/

/-- The decode commands and the bitstream tags: what is no numeric or Huffman command of R102. -/
def ReadsRecord (i : Instr) : Prop := ∀ op, encode i = (.command, op) → 0x10 ≤ op

/-- What an instruction can make of a state, by its class (R101). -/
inductive InstrEnds (s : State) : Instr → State → Prop
  /-- It completes with its results alone (R44, R48). -/
  | completed {i : Instr} (res0 res1 : Word) : InstrEnds s i (s.complete res0 res1)
  /-- It ends with an error, the cursor where it was (R403). -/
  | raised {i : Instr} (e : Raise) (ctx : ErrCtx) : InstrEnds s i (s.raiseError e ctx)
  /-- READ_BITS moves the cursor over the field (R154). -/
  | readField (pos : Nat) (res0 : Word) : InstrEnds s .readBits ((s.withBitPos pos).complete res0 0)
  /-- RENDER_LINE draws a line that lies in LINE_BUF's valid elements (R186). -/
  | drewLine (h : s.lineInBounds = true) :
      InstrEnds s .renderLine (({ s with mem := writeLine s.mem s.lineWrites }).complete 0 0)
  /-- HUFF_CLEAR (R214). -/
  | clearedTree : InstrEnds s .huffClear (({ s with huffWork := HuffTree.empty }).complete 0 0)
  /-- HUFF_ADD_NODE (R215). -/
  | addedNode (tree : HuffTree) (res0 res1 : Word) :
      InstrEnds s .huffAddNode (({ s with huffWork := tree }).complete res0 res1)
  /-- A decode command or a tag ends the record's command (R48, R52, R403). -/
  | decodeEnded {i : Instr} (hi : ReadsRecord i) (start : Nat) (x : EStateM.Result Raise Cursor Record) :
      InstrEnds s i (s.endDecode start x)
  /-- A tag goes on inside its record (R63). -/
  | movedOn {i : Instr} (hi : ReadsRecord i) (pos : Nat) (v : ParseVars) :
      InstrEnds s i { s.withBitPos pos with parse := v }

namespace InstrEnds

variable {s t : State} {i : Instr}

theorem neighbor (s : State) (search : (Nat → Nat) → Nat → Option Nat) (which : Nat) :
    InstrEnds s i (s.neighbor search which) := by
  unfold State.neighbor
  split
  · exact .raised _ _
  split
  · exact .raised _ _
  split
  · exact .completed _ _
  · exact .raised _ _

theorem runDecode (hi : ReadsRecord i) (s : State) (mapped : Bool) (start : Nat) (ctx : ErrCtx)
    (decoder : Parser Record) : InstrEnds s i (s.runDecode mapped start ctx decoder) := by
  unfold State.runDecode
  split
  · exact .raised _ _
  · exact .decodeEnded hi _ _

theorem applyField (hi : ReadsRecord i) (s : State) (f : Parser Progress) : InstrEnds s i (s.applyField f) := by
  unfold State.applyField
  split
  · exact .movedOn hi _ _
  · exact .decodeEnded hi _ _
  · exact .decodeEnded hi _ _

end InstrEnds

/-! ### The classes -/

section
variable (s : State)

theorem execReadBits_instrEnds : ∃ t, execReadBits s = .next t ∧ InstrEnds s .readBits t := by
  refine ⟨_, rfl, ?_⟩
  split
  · exact .raised _ _
  split
  · exact .raised _ _
  split
  · exact .readField _ _
  · exact .raised _ _

theorem execRenderPoint_instrEnds : ∃ t, execRenderPoint s = .next t ∧ InstrEnds s .renderPoint t := by
  refine ⟨_, rfl, ?_⟩
  split
  · exact .raised _ _
  split
  · exact .completed _ _
  · exact .raised _ _

theorem execRenderLine_instrEnds : ∃ t, execRenderLine s = .next t ∧ InstrEnds s .renderLine t := by
  refine ⟨_, rfl, ?_⟩
  split
  · exact .raised _ _
  split
  next h => exact .drewLine h
  · exact .raised _ _

theorem execHuffAddNode_instrEnds : ∃ t, execHuffAddNode s = .next t ∧ InstrEnds s .huffAddNode t := by
  refine ⟨_, rfl, ?_⟩
  split
  · exact .raised _ _
  split
  · exact .raised _ _
  split
  · exact .raised _ _
  · exact .addedNode _ _ _

/-- Every instruction ends as its class allows. -/
theorem exec_instrEnds (i : Instr) : ∃ t, exec i s = .next t ∧ InstrEnds s i t := by
  cases i with
  | readBits => exact execReadBits_instrEnds s
  | ilog => exact ⟨_, rfl, .completed _ _⟩
  | float32Unpack | lookup1Values =>
    refine ⟨_, rfl, ?_⟩
    split
    · exact .completed _ _
    · exact .raised _ _
  | lowNeighbor | highNeighbor => exact ⟨_, rfl, .neighbor s _ _⟩
  | renderPoint => exact execRenderPoint_instrEnds s
  | renderLine => exact execRenderLine_instrEnds s
  | huffClear => exact ⟨_, rfl, .clearedTree⟩
  | huffAddNode => exact execHuffAddNode_instrEnds s
  | decodeCodebook | decodeFloor | decodeResidue | decodeMapping | decodeMode | decodeTdt | decodeSetup =>
    exact ⟨_, rfl, .runDecode (by simp [ReadsRecord, encode]) s _ _ _ _⟩
  | codebookSync | codebookLookupNone | codebookLookupType1 | codebookLookupType2 | floorType0 | floorType1
  | residueType0 | residueType1 | residueType2 | mappingType0 | mappingReserved | modeWindowType0
  | modeTransformType0 | tdtReserved | setupFraming =>
    exact ⟨_, rfl, .applyField (by simp [ReadsRecord, encode]) s _⟩

end

/-! ### What each class keeps -/

namespace InstrEnds

variable {s t : State} {i : Instr}

/-- An instruction writes the completion's registers, the cursor, the windows' contents and its parse variables, and
nothing else (R64). -/
theorem eq_update (h : InstrEnds s i t) :
    t = { s with
      phase := t.phase, done := t.done, err := t.err, errCode := t.errCode, errInfo := t.errInfo
      errAux := t.errAux, errCtx := t.errCtx, bitPos := t.bitPos, res0 := t.res0, res1 := t.res1, mem := t.mem
      huffWork := t.huffWork, record := t.record, parse := t.parse } := by
  cases h with
  | decodeEnded _ _ x => cases x <;> rfl
  | _ => rfl

theorem mem_eq (h : InstrEnds s i t) (hi : i ≠ .renderLine) : t.mem = s.mem := by
  cases h with
  | drewLine => exact absurd rfl hi
  | decodeEnded _ _ x => cases x <;> rfl
  | _ => rfl

theorem huffWork_eq (h : InstrEnds s i t) (hclear : i ≠ .huffClear) (hadd : i ≠ .huffAddNode) :
    t.huffWork = s.huffWork := by
  cases h with
  | clearedTree => exact absurd rfl hclear
  | addedNode => exact absurd rfl hadd
  | decodeEnded _ _ x => cases x <;> rfl
  | _ => rfl

theorem record_eq (h : InstrEnds s i t) {op : Nat} (henc : encode i = (.command, op)) (hop : op < 0x10) :
    t.record = s.record := by
  cases h with
  | decodeEnded hi => exact absurd (hi op henc) (by omega)
  | _ => rfl

theorem bitPos_eq (h : InstrEnds s i t) {op : Nat} (henc : encode i = (.command, op)) (h1 : 0x01 < op)
    (hop : op < 0x10) : t.bitPos = s.bitPos := by
  cases h with
  | readField =>
    obtain rfl : 0x01 = op := (Prod.mk.inj henc).2
    exact absurd h1 (by decide)
  | decodeEnded hi | movedOn hi => exact absurd (hi op henc) (by omega)
  | _ => rfl

/-- RENDER_LINE's writes lie in LINE_BUF's first LINE_LEN elements (R186). -/
theorem byteAt_eq (h : InstrEnds s i t) {a : Nat} (ha : a < lineOffset 0 ∨ lineOffset s.lineLen.toNat ≤ a) :
    t.byteAt a = s.byteAt a := by
  cases h with
  | drewLine hline =>
    obtain ⟨h0, hlt, hlen⟩ := (lineInBounds_iff s).mp hline
    have hop2 := toInt_of_nonneg (w := s.op2) (by omega)
    refine byte_writeLine_ne s.mem s.resets a s.lineWrites fun w hw => ?_
    obtain ⟨-, hx, -⟩ := mem_lineWrites h0 hlt hw
    unfold lineOffset at *
    omega
  | decodeEnded _ _ x => cases x <;> rfl
  | _ => rfl

end InstrEnds

/-- Settles O45: an instruction ends as its class allows, and each of those ends keeps what the frame lists. -/
theorem commandsKeepTheRest : Obligations.CommandsKeepTheRest := by
  intro i s t hexec
  obtain ⟨u, hu, h⟩ := exec_instrEnds s i
  obtain rfl : u = t := Host.Outcome.next.inj (hu.symm.trans hexec)
  have heq := h.eq_update
  refine ⟨?_, ?_, ?_, ?_, ?_, ?_, ?_, ?_, ?_, ?_, ?_, ?_, ?_, ?_, ?_, ?_, h.mem_eq, h.huffWork_eq,
    fun _ => h.record_eq, fun _ => h.bitPos_eq, fun _ => h.byteAt_eq⟩ <;> rw [heq]

end Sys2Proof.Machine

/-! # The bit reader (40_bitreader.md) -/

namespace Sys2Proof.Machine

theorem exec_readBits (s : State) : exec .readBits s = execReadBits s := rfl

section
variable {s : State} (hlen : s.inLen.toNat ≤ s.params.inCap) (hop : s.op0.toNat ≤ 32)
include hlen hop

/-- READ_BITS past its start checks (R411) ends with what `read(n)` at BIT_POS answers (R154). -/
theorem execReadBits_of_read_ok {v : Nat} {c : Cursor}
    (hread : read s.payload s.op0.toNat ⟨s.bitPos.toNat, ErrCtx.none⟩ = .ok v c) :
    execReadBits s = .next ((s.withBitPos c.pos).complete (Word.low v) 0) := by
  simp [execReadBits, Nat.not_lt.mpr hlen, Nat.not_lt.mpr hop, hread]

theorem execReadBits_of_read_error {e : Raise} {c : Cursor}
    (hread : read s.payload s.op0.toNat ⟨s.bitPos.toNat, ErrCtx.none⟩ = .error e c) :
    execReadBits s = .next (s.raiseError e c.ctx) := by
  simp [execReadBits, Nat.not_lt.mpr hlen, Nat.not_lt.mpr hop, hread]

end

/-- A cursor moved by a register's value is the register sum: both wrap at 32 bits. -/
theorem low_toNat_add_toNat (a b : Word) : Word.low (a.toNat + b.toNat) = a + b := by
  simp [Word.low, BitVec.ofNat_add]

/-- R78 for a field of at most 32 bits in a word: no bit of it is cut. -/
theorem Payload.getLsbD_low_field (p : Payload) (q k : Nat) {n : Nat} (hn : n ≤ 32) :
    (Word.low (p.field q n)).getLsbD k = (decide (k < n) && p.bit (q + k)) := by
  rw [Word.low, BitVec.getLsbD_ofNat, Payload.testBit_field]
  by_cases hk : k < n
  · simp [hk, show k < 32 by omega]
  · simp [hk]

/-- Settles O12: of the two answers of `read(n)`, each clause rules one out. -/
theorem readBitsReadsField : Obligations.ReadBitsReadsField := by
  intro s hlen hop
  have hzero : s.op0.toNat = 0 ↔ s.op0 = 0 := by rw [← BitVec.toNat_inj]; rfl
  rcases read_cases s.payload s.op0.toNat ⟨s.bitPos.toNat, ErrCtx.none⟩ with
    ⟨hread, hfits⟩ | ⟨hread, hn, hshort⟩
  · refine ⟨fun _ => ⟨_, ?_, fun k => s.payload.getLsbD_low_field s.bitPos.toNat k hop⟩, fun hn hshort => ?_⟩
    · rw [← low_toNat_add_toNat, exec_readBits]
      exact execReadBits_of_read_ok hlen hop hread
    · exact absurd hshort (Nat.not_lt.mpr (hfits.resolve_left (mt hzero.mp hn)))
  · refine ⟨fun hfits => ?_, fun _ _ => ?_⟩
    · exact absurd (hfits.resolve_left (mt hzero.mpr hn)) (Nat.not_le.mpr hshort)
    · simpa [exec_readBits, State.raiseError_eq, ErrKind.code, Word.low] using execReadBits_of_read_error hlen hop hread

end Sys2Proof.Machine

/-! # The numeric utilities (41_numeric.md) -/

namespace Sys2Proof.Machine

/-! ## ilog -/

theorem exec_ilog (s : State) : exec .ilog s = execIlog s := rfl

theorem lt_two_pow_ilog (x : Nat) : x < 2 ^ ilog x := by
  unfold ilog
  split
  next h => simp [h]
  next => exact Nat.lt_log2_self

theorem ilog_pos {x : Nat} (hx : x ≠ 0) : 0 < ilog x := by
  simp [ilog, hx]

theorem two_pow_ilog_sub_one_le {x : Nat} (hx : x ≠ 0) : 2 ^ (ilog x - 1) ≤ x := by
  simpa [ilog, hx] using Nat.log2_self_le hx

/-- The bounds of R170 place the number of bits: it is at most every exponent whose power exceeds the number. -/
theorem ilog_le_of_lt_two_pow {x n : Nat} (h : x < 2 ^ n) : ilog x ≤ n := by
  rcases Nat.eq_zero_or_pos x with rfl | hx
  · exact Nat.zero_le n
  · have hlt := (Nat.pow_lt_pow_iff_right (Nat.lt_succ_self 1)).mp
      (Nat.lt_of_le_of_lt (two_pow_ilog_sub_one_le (Nat.ne_of_gt hx)) h)
    omega

theorem word_toNat_eq_zero_iff {w : Word} : w.toNat = 0 ↔ w = 0 := by
  rw [← BitVec.toNat_inj]
  rfl

/-- Settles O13: the operand lies between two neighboring powers of two. -/
theorem ilogIsBitLength : Obligations.IlogIsBitLength := by
  intro s
  refine ⟨ilog s.op0.toNat, exec_ilog s, ilog_le_of_lt_two_pow s.op0.isLt, fun h => ?_, fun h => ?_⟩
  · simp [h, ilog]
  · have hne := mt word_toNat_eq_zero_iff.mp h
    exact ⟨ilog_pos hne, two_pow_ilog_sub_one_le hne, lt_two_pow_ilog _⟩

/-! ## float32_unpack -/

theorem exec_float32Unpack (s : State) : exec .float32Unpack s = execFloat32Unpack s := rfl

/-! ### The packed value against a power of two -/

/-- The exponent of the highest bit of `m · 2^e` is `ilog m - 1 + e`. -/
theorem two_pow_le_mul_two_pow_iff {m : Nat} (hm : m ≠ 0) (e n : Nat) : 2 ^ n ≤ m * 2 ^ e ↔ n ≤ ilog m - 1 + e := by
  constructor
  · intro h
    have hlt : 2 ^ n < 2 ^ (ilog m + e) := by
      rw [Nat.pow_add]
      exact Nat.lt_of_le_of_lt h (Nat.mul_lt_mul_of_pos_right (lt_two_pow_ilog m) (Nat.two_pow_pos e))
    have := (Nat.pow_lt_pow_iff_right (Nat.lt_succ_self 1)).mp hlt
    have := ilog_pos hm
    omega
  · intro h
    calc 2 ^ n ≤ 2 ^ (ilog m - 1 + e) := Nat.pow_le_pow_right Nat.zero_lt_two h
      _ = 2 ^ (ilog m - 1) * 2 ^ e := Nat.pow_add _ _ _
      _ ≤ m * 2 ^ e := Nat.mul_le_mul_right _ (two_pow_ilog_sub_one_le hm)

theorem packedMantissa_lt (x : Word) : packedMantissa x < 2 ^ 21 := Nat.mod_lt _ (Nat.two_pow_pos 21)

/-! ### The values of the finite patterns -/

/-- A pattern with its rounding unit `2^n` and its significand `q` apart: `q` has its hidden bit unless the unit is the
smallest. A significand of `2^24` carries into the exponent. -/
theorem binary32Units_of_significand {n q : Nat} (hq : q ≤ 2 ^ 24) (hn : n = 0 ∨ 2 ^ 23 ≤ q) :
    binary32Units (n * 2 ^ 23 + q) = q * 2 ^ n := by
  unfold binary32Units
  rcases Nat.lt_or_ge q (2 ^ 23) with hlt | hge
  · obtain rfl : n = 0 := by omega
    rw [if_pos (by omega)]
    omega
  rw [if_neg (by omega)]
  rcases Nat.lt_or_eq_of_le hq with hlt | rfl
  · rw [show 2 ^ 23 + (n * 2 ^ 23 + q) % 2 ^ 23 = q by omega, show (n * 2 ^ 23 + q) / 2 ^ 23 - 1 = n by omega]
  · rw [show 2 ^ 23 + (n * 2 ^ 23 + 2 ^ 24) % 2 ^ 23 = 2 ^ 23 by omega,
      show (n * 2 ^ 23 + 2 ^ 24) / 2 ^ 23 - 1 = n + 1 by omega, Nat.pow_succ]
    omega

theorem exists_significand (b : Nat) : ∃ n q, b = n * 2 ^ 23 + q ∧ q < 2 ^ 24 ∧ (n = 0 ∨ 2 ^ 23 ≤ q) := by
  by_cases h : b < 2 ^ 23
  · exact ⟨0, b, by omega, by omega, .inl rfl⟩
  · exact ⟨b / 2 ^ 23 - 1, 2 ^ 23 + b % 2 ^ 23, by omega, by omega, .inr (by omega)⟩

/-- The next pattern is one unit further. -/
theorem binary32Units_lt_succ (b : Nat) : binary32Units b < binary32Units (b + 1) := by
  obtain ⟨n, q, rfl, hq, hn⟩ := exists_significand b
  rw [Nat.add_assoc, binary32Units_of_significand (Nat.le_of_lt hq) hn, binary32Units_of_significand hq (by omega)]
  exact Nat.mul_lt_mul_of_pos_right (Nat.lt_succ_self q) (Nat.two_pow_pos n)

theorem binary32Units_lt {a b : Nat} (h : a < b) : binary32Units a < binary32Units b := by
  induction h with
  | refl => exact binary32Units_lt_succ a
  | step _ ih => exact Nat.lt_trans ih (binary32Units_lt_succ _)

theorem binary32Units_injective {a b : Nat} (h : binary32Units a = binary32Units b) : a = b := by
  rcases Nat.lt_trichotomy a b with hab | hab | hab
  · exact absurd h (Nat.ne_of_lt (binary32Units_lt hab))
  · exact hab
  · exact absurd h.symm (Nat.ne_of_lt (binary32Units_lt hab))

/-! ### Distances -/

/-- The distance of two magnitudes. -/
def gap (a b : Nat) : Nat := ((a : Int) - b).natAbs

theorem gap_eq_zero_iff {a b : Nat} : gap a b = 0 ↔ a = b := by
  unfold gap
  omega

theorem gap_mul_right (a b c : Nat) : gap (a * c) (b * c) = gap a b * c := by
  simp [gap, ← Int.sub_mul, Int.natAbs_mul]

theorem gap_triangle (a b c : Nat) : gap a b ≤ gap a c + gap b c := by
  unfold gap
  omega

/-- Rounding half to even moves a number by half a unit at most, and by half a unit only to an even multiple. -/
theorem gap_roundHalfEven (num k : Nat) :
    2 * gap (roundHalfEven num k * 2 ^ k) num ≤ 2 ^ k ∧
      (2 * gap (roundHalfEven num k * 2 ^ k) num = 2 ^ k → roundHalfEven num k % 2 = 0) := by
  have hdiv := Nat.div_add_mod' num (2 ^ k)
  have hmod := Nat.mod_lt num (Nat.two_pow_pos k)
  have hsucc := Nat.add_one_mul (num / 2 ^ k) (2 ^ k)
  unfold roundHalfEven gap
  dsimp only
  split <;> omega

/-- Rounding half to even finds a nearest multiple of `2^k`, and on a tie an even one. -/
theorem roundHalfEven_nearest (num k n : Nat) :
    gap (roundHalfEven num k * 2 ^ k) num ≤ gap (n * 2 ^ k) num ∧
      (gap (roundHalfEven num k * 2 ^ k) num = gap (n * 2 ^ k) num →
        n = roundHalfEven num k ∨ roundHalfEven num k % 2 = 0) := by
  by_cases hn : n = roundHalfEven num k
  · rw [hn]
    exact ⟨Nat.le_refl _, fun _ => .inl rfl⟩
  · obtain ⟨hhalf, htie⟩ := gap_roundHalfEven num k
    have hapart : 2 ^ k ≤ gap (n * 2 ^ k) (roundHalfEven num k * 2 ^ k) := by
      rw [gap_mul_right]
      exact Nat.le_mul_of_pos_left _ (Nat.pos_of_ne_zero (mt gap_eq_zero_iff.mp hn))
    have := gap_triangle (n * 2 ^ k) (roundHalfEven num k * 2 ^ k) num
    exact ⟨by omega, fun heq => .inr (htie (by omega))⟩

theorem roundHalfEven_le (num k : Nat) : roundHalfEven num k ≤ num + 1 := by
  have := Nat.div_le_self num (2 ^ k)
  unfold roundHalfEven
  dsimp only
  split <;> omega

/-! ### The rounding of R173 -/

section
variable {m e : Nat} (hlt : m < 2 ^ 21)
include hlt

/-- With 21 mantissa bits nothing is rounded from the unit 2^−149 on: the value is a pattern's, and a finite one's
unless it is 2^128 or more. -/
theorem rne32_exact (hm : m ≠ 0) (he : 639 ≤ e) (hfin : ilog m - 1 + e < 788 + 128) :
    rne32 m e < 0x7F800000 ∧ binary32Units (rne32 m e) * 2 ^ 639 = m * 2 ^ e := by
  have hbits := ilog_le_of_lt_two_pow hlt
  obtain ⟨u, hu⟩ : ∃ u, u = max (ilog m - 1 + e - 23) 639 := ⟨_, rfl⟩
  have hue : u ≤ e := by omega
  have hrne : rne32 m e = (u - 639) * 2 ^ 23 + m * 2 ^ (e - u) := by
    simp only [rne32, ← hu]
    rw [if_pos hue]
  have hq : m * 2 ^ (e - u) < 2 ^ 24 := by
    rw [← Nat.not_le, two_pow_le_mul_two_pow_iff hm]
    omega
  have hhidden : u - 639 = 0 ∨ 2 ^ 23 ≤ m * 2 ^ (e - u) := by
    rw [two_pow_le_mul_two_pow_iff hm]
    omega
  refine ⟨by omega, ?_⟩
  rw [hrne, binary32Units_of_significand (Nat.le_of_lt hq) hhidden, Nat.mul_assoc, Nat.mul_assoc,
    ← Nat.pow_add 2 (u - 639) 639, ← Nat.pow_add 2 (e - u), show e - u + (u - 639 + 639) = e by omega]

/-- Below it the value is rounded to a multiple of the unit, a subnormal pattern. -/
theorem rne32_subnormal (he : e < 639) :
    rne32 m e = roundHalfEven m (639 - e) ∧ rne32 m e < 2 ^ 23 := by
  have hbits := ilog_le_of_lt_two_pow hlt
  have hu : max (ilog m - 1 + e - 23) 639 = 639 := by omega
  have hrne : rne32 m e = roundHalfEven m (639 - e) := by
    simp only [rne32, hu]
    rw [if_neg (by omega)]
    simp
  have := roundHalfEven_le m (639 - e)
  exact ⟨hrne, by omega⟩

/-- R173: the pattern is a finite one, no other is nearer, and it is even when another is as near. -/
theorem rne32_nearest (hm : m ≠ 0) (hfin : ilog m - 1 + e < 788 + 128) :
    rne32 m e < 0x7F800000 ∧
      ∀ b, gap (binary32Units (rne32 m e) * 2 ^ 639) (m * 2 ^ e) ≤ gap (binary32Units b * 2 ^ 639) (m * 2 ^ e) ∧
        (gap (binary32Units (rne32 m e) * 2 ^ 639) (m * 2 ^ e) = gap (binary32Units b * 2 ^ 639) (m * 2 ^ e) →
          b = rne32 m e ∨ rne32 m e % 2 = 0) := by
  rcases Nat.lt_or_ge e 639 with he | he
  · obtain ⟨hround, hsub⟩ := rne32_subnormal hlt he
    have hunits : binary32Units (rne32 m e) = rne32 m e := by
      simpa using binary32Units_of_significand (n := 0) (q := rne32 m e) (by omega) (.inl rfl)
    have hgap (x : Nat) : gap (x * 2 ^ 639) (m * 2 ^ e) = gap (x * 2 ^ (639 - e)) m * 2 ^ e := by
      rw [← gap_mul_right, Nat.mul_assoc, ← Nat.pow_add, Nat.sub_add_cancel (Nat.le_of_lt he)]
    refine ⟨by omega, fun b => ?_⟩
    obtain ⟨hle, htie⟩ := roundHalfEven_nearest m (639 - e) (binary32Units b)
    rw [hgap, hgap, hunits, hround]
    refine ⟨Nat.mul_le_mul_right _ hle, fun heq => ?_⟩
    refine (htie (Nat.eq_of_mul_eq_mul_right (Nat.two_pow_pos e) heq)).imp_left fun hb => ?_
    rw [← hround] at hb ⊢
    exact binary32Units_injective (hb.trans hunits.symm)
  · obtain ⟨hpattern, hexact⟩ := rne32_exact hlt hm he hfin
    refine ⟨hpattern, fun b => ?_⟩
    rw [gap_eq_zero_iff.mpr hexact]
    refine ⟨Nat.zero_le _, fun heq => .inl (binary32Units_injective ?_)⟩
    refine Nat.eq_of_mul_eq_mul_right ?_ ((gap_eq_zero_iff.mp heq.symm).trans hexact.symm)
    apply Nat.two_pow_pos

end

/-! ### The command -/

section
variable {s : State}

theorem execFloat32Unpack_of_some {v : Word} (h : float32Unpack s.op0 = some v) :
    execFloat32Unpack s = .next (s.afterSuccess v 0) := by
  simp [execFloat32Unpack, h, State.complete_eq]

theorem execFloat32Unpack_of_none (h : float32Unpack s.op0 = none) :
    execFloat32Unpack s = .next (s.afterError 10 s.op0 0 0) := by
  simp [execFloat32Unpack, h, State.raiseError_eq, ErrKind.code]

end

theorem float32Unpack_of_overflow {x : Word} (hm : packedMantissa x ≠ 0)
    (h : 788 + 128 ≤ ilog (packedMantissa x) - 1 + packedExponent x) : float32Unpack x = none := by
  simp only [float32Unpack]
  rw [if_neg hm, if_pos h]

theorem float32Unpack_of_finite {x : Word} (hm : packedMantissa x ≠ 0)
    (h : ilog (packedMantissa x) - 1 + packedExponent x < 788 + 128) :
    float32Unpack x =
      some (Word.low ((if packedSign x then 2 ^ 31 else 0) + rne32 (packedMantissa x) (packedExponent x))) := by
  simp only [float32Unpack]
  rw [if_neg hm, if_neg (Nat.not_le.mpr h)]

/-- Settles O14: the magnitude's highest bit tells overflow apart, and a finite magnitude is rounded to the nearest. -/
theorem float32UnpackRoundsToNearestEven : Obligations.Float32UnpackRoundsToNearestEven := by
  intro s m e hm he
  obtain rfl : m = packedMantissa s.op0 := hm
  obtain rfl : e = packedExponent s.op0 := he
  have hover (hm : packedMantissa s.op0 ≠ 0) := two_pow_le_mul_two_pow_iff hm (packedExponent s.op0) (128 + 788)
  rw [exec_float32Unpack]
  refine ⟨fun hm => execFloat32Unpack_of_some (if_pos hm), fun hm hle => ?_, fun hm hlt => ?_⟩
  · exact execFloat32Unpack_of_none (float32Unpack_of_overflow hm ((hover hm).mp hle))
  · have hfin := Nat.not_le.mp (mt (hover hm).mpr (Nat.not_le.mpr hlt))
    obtain ⟨hpattern, hnearest⟩ := rne32_nearest (packedMantissa_lt s.op0) hm hfin
    exact ⟨_, hpattern, execFloat32Unpack_of_some (float32Unpack_of_finite hm hfin), fun b _ => hnearest b⟩

/-! ## lookup1_values -/

theorem exec_lookup1Values (s : State) : exec .lookup1Values s = execLookup1Values s := rfl

/-- Cutting the exponent at 33 decides the same: a base of 2 or more is over `n` either way. -/
theorem powLe_iff {r d n : Nat} (hd : d ≠ 0) (hn : n < 2 ^ 33) : powLe r d n = true ↔ r ^ d ≤ n := by
  simp only [powLe, decide_eq_true_eq]
  rcases Nat.le_total d 33 with hle | hle
  · rw [Nat.min_eq_left hle]
  rw [Nat.min_eq_right hle]
  match r with
  | 0 => simp only [Nat.zero_pow (Nat.pos_of_ne_zero hd), Nat.zero_pow (Nat.zero_lt_succ 32)]
  | 1 => simp
  | r + 2 =>
    have h33 : n < (r + 2) ^ 33 := Nat.lt_of_lt_of_le hn (Nat.pow_le_pow_left (by omega) 33)
    have hd' : n < (r + 2) ^ d := Nat.lt_of_lt_of_le h33 (Nat.pow_le_pow_right (by omega) hle)
    omega

/-- The search ends at the last number whose power fits, when it starts at one that fits with none fitting from `2 ^ k`
on. -/
theorem lookupSearch_spec {n d : Nat} (hd : d ≠ 0) (hn : n < 2 ^ 33) (k : Nat) {r : Nat} (hfits : r ^ d ≤ n)
    (hover : n < (r + 2 ^ k) ^ d) :
    lookupSearch n d k r ^ d ≤ n ∧ n < (lookupSearch n d k r + 1) ^ d := by
  induction k generalizing r with
  | zero => exact ⟨hfits, hover⟩
  | succ k ih =>
    unfold lookupSearch
    split
    next h =>
      refine ih ((powLe_iff hd hn).mp h) ?_
      rwa [Nat.add_assoc, ← Nat.two_mul, ← Nat.pow_succ']
    next h => exact ih hfits (Nat.not_le.mp (mt (powLe_iff hd hn).mpr h))

/-- R176 on 32-bit operands with dimensions not 0. -/
theorem lookup1Values_eq_some {entries dimensions : Nat} (hd : dimensions ≠ 0) (hn : entries < 2 ^ 32) :
    ∃ r < 2 ^ 32, lookup1Values entries dimensions = some r ∧ r ^ dimensions ≤ entries ∧
      ∀ q, q ^ dimensions ≤ entries → q ≤ r := by
  have hover : entries < (0 + 2 ^ 32) ^ dimensions := by
    rw [Nat.zero_add]
    exact Nat.lt_of_lt_of_le hn (Nat.le_self_pow hd _)
  have hzero : 0 ^ dimensions ≤ entries := by
    rw [Nat.zero_pow (Nat.pos_of_ne_zero hd)]
    exact Nat.zero_le _
  obtain ⟨hle, hlt⟩ := lookupSearch_spec hd (by omega) 32 hzero hover
  refine ⟨lookupSearch entries dimensions 32 0, ?_, if_neg hd, hle, fun q hq => ?_⟩
  · exact Nat.lt_of_le_of_lt (Nat.le_trans (Nat.le_self_pow hd _) hle) hn
  · refine Nat.le_of_not_lt fun hover => Nat.not_le.mpr hlt ?_
    exact Nat.le_trans (Nat.pow_le_pow_left hover dimensions) hq

/-- Settles O15: the search finds the root, and a zero in place of the dimensions leaves the two other cases. -/
theorem lookup1ValuesIsIntegerRoot : Obligations.Lookup1ValuesIsIntegerRoot := by
  intro s
  rw [exec_lookup1Values]
  refine ⟨fun h1 => ?_, fun h1 h0 => ?_, fun h1 h0 => ?_⟩
  · obtain ⟨r, hr, heq, hle, hmax⟩ := lookup1Values_eq_some (mt word_toNat_eq_zero_iff.mp h1) s.op0.isLt
    refine ⟨Word.low r, ?_, ?_⟩
    · rw [execLookup1Values, heq]
      rfl
    · rw [BitVec.toNat_ofNat, Nat.mod_eq_of_lt hr]
      exact ⟨hle, hmax⟩
  · simp [execLookup1Values, lookup1Values, h1, h0, State.complete_eq]
  · simp [execLookup1Values, lookup1Values, h1, mt word_toNat_eq_zero_iff.mp h0, State.raiseError_eq, ErrKind.code]

/-! ## low_neighbor and high_neighbor -/

theorem exec_lowNeighbor (s : State) : exec .lowNeighbor s = execLowNeighbor s := rfl
theorem exec_highNeighbor (s : State) : exec .highNeighbor s = execHighNeighbor s := rfl

/-- `b` is the first index below `n` whose value is a candidate with the greatest key. -/
structure FirstBest (v : Nat → Nat) (fits : Nat → Bool) (key : Nat → Int) (n b : Nat) : Prop where
  lt : b < n
  fits_self : fits (v b) = true
  key_le : ∀ k < n, fits (v k) = true → key (v k) ≤ key (v b)
  key_lt : ∀ k < b, fits (v k) = true → key (v k) < key (v b)

section
variable {v : Nat → Nat} {fits : Nat → Bool} {key : Nat → Int} {n b : Nat}

theorem FirstBest.of_newest (hfit : fits (v n) = true) (h : ∀ k < n, fits (v k) = true → key (v k) < key (v n)) :
    FirstBest v fits key (n + 1) n where
  lt := Nat.lt_succ_self n
  fits_self := hfit
  key_le := Nat.forall_lt_succ_right.mpr ⟨fun k hk hf => Int.le_of_lt (h k hk hf), fun _ => Int.le_refl _⟩
  key_lt := h

theorem FirstBest.keep (hb : FirstBest v fits key n b) (h : fits (v n) = true → key (v n) ≤ key (v b)) :
    FirstBest v fits key (n + 1) b where
  lt := Nat.lt_succ_of_lt hb.lt
  fits_self := hb.fits_self
  key_le := Nat.forall_lt_succ_right.mpr ⟨hb.key_le, h⟩
  key_lt := hb.key_lt

theorem FirstBest.ne (hb : FirstBest v fits key n b) : ∀ k < b, v k ≠ v b := by
  intro k hk heq
  have hlt := hb.key_lt k hk (heq ▸ hb.fits_self)
  rw [heq] at hlt
  exact Int.lt_irrefl _ hlt

end

/-- What a scan below `n` answers: the first best candidate, or `none` where there is no candidate. -/
def ScanAnswers (v : Nat → Nat) (fits : Nat → Bool) (key : Nat → Int) (n : Nat) : Option Nat → Prop
  | none => ∀ k < n, fits (v k) = false
  | some b => FirstBest v fits key n b

/-- R180's loop, where `beats` compares by a key: a new candidate becomes the best one only when its key is greater. -/
theorem neighborScan_answers {v : Nat → Nat} {fits : Nat → Bool} {beats : Nat → Nat → Bool} {key : Nat → Int}
    (hbeats : ∀ a b, beats a b = true ↔ key b < key a) (n : Nat) :
    ScanAnswers v fits key n (neighborScan v fits beats n) := by
  induction n with
  | zero => exact fun k hk => absurd hk (Nat.not_lt_zero k)
  | succ n ih =>
    rw [neighborScan]
    cases hscan : neighborScan v fits beats n with
    | none =>
      have hnone : ∀ k < n, fits (v k) = false := by rwa [hscan] at ih
      dsimp only
      split
      next hfit => exact FirstBest.of_newest hfit fun k hk hf => absurd hf (by simp [hnone k hk])
      next hfit => exact Nat.forall_lt_succ_right.mpr ⟨hnone, by simpa using hfit⟩
    | some b =>
      have hb : FirstBest v fits key n b := by rwa [hscan] at ih
      dsimp only
      split
      next h =>
        obtain ⟨hfit, hlt⟩ : fits (v n) = true ∧ key (v b) < key (v n) := by simpa [hbeats] using h
        exact FirstBest.of_newest hfit fun k hk hf => Int.lt_of_le_of_lt (hb.key_le k hk hf) hlt
      next h => exact hb.keep (by simpa [hbeats] using h)

theorem lowNeighbor_answers (v : Nat → Nat) (x : Nat) :
    ScanAnswers v (fun a => a < v x) (fun a => a) x (lowNeighbor v x) :=
  neighborScan_answers (by simp) x

theorem highNeighbor_answers (v : Nat → Nat) (x : Nat) :
    ScanAnswers v (fun a => a > v x) (fun a => -a) x (highNeighbor v x) :=
  neighborScan_answers (by simp) x

section
variable {s : State} {search : (Nat → Nat) → Nat → Option Nat} {fits : Nat → Bool} {key : Nat → Int}
  (hlen : s.vecLen.toNat ≤ s.params.vecCap) (hx : s.op0.toNat < s.vecLen.toNat)
  (hanswers : ScanAnswers s.vecElem fits key s.op0.toNat (search s.vecElem s.op0.toNat)) (which : Nat)
include hlen hx hanswers

/-- Past the start checks and with a candidate, the command completes with the first best one (R182, R183). -/
theorem neighbor_of_candidate (h : ∃ n < s.op0.toNat, fits (s.vecElem n) = true) :
    ∃ n, FirstBest s.vecElem fits key s.op0.toNat n ∧ s.neighbor search which = s.afterSuccess (Word.low n) 0 := by
  obtain ⟨k, hk, hfit⟩ := h
  unfold State.neighbor
  rw [if_neg (Nat.not_lt.mpr hlen), if_neg (Nat.not_le.mpr hx)]
  cases hs : search s.vecElem s.op0.toNat with
  | none =>
    rw [hs] at hanswers
    simp [hanswers k hk] at hfit
  | some n =>
    rw [hs] at hanswers
    exact ⟨n, hanswers, rfl⟩

/-- With no candidate it raises NoNeighbor. -/
theorem neighbor_of_no_candidate (h : ∀ n < s.op0.toNat, fits (s.vecElem n) = false) :
    s.neighbor search which = s.afterError 14 s.op0 (Word.low which) 0 := by
  unfold State.neighbor
  rw [if_neg (Nat.not_lt.mpr hlen), if_neg (Nat.not_le.mpr hx)]
  cases hs : search s.vecElem s.op0.toNat with
  | none => simp [State.raiseError_eq, ErrKind.code]
  | some n =>
    rw [hs] at hanswers
    have hfit := hanswers.fits_self
    simp [h n hanswers.lt] at hfit

end

/-- Settles O16: both commands share the scan, whose answer is the first best candidate by value. -/
theorem neighborsAreClosestInValue : Obligations.NeighborsAreClosestInValue := by
  rintro s v x hlen rfl hx rfl
  have hlow := lowNeighbor_answers s.vecElem s.op0.toNat
  have hhigh := highNeighbor_answers s.vecElem s.op0.toNat
  rw [exec_lowNeighbor, exec_highNeighbor]
  refine ⟨fun h => ?_, fun h => ?_, fun h => ?_, fun h => ?_⟩
  · obtain ⟨n, hbest, heq⟩ := neighbor_of_candidate hlen hx hlow 0 (by simpa using h)
    refine ⟨n, hbest.lt, congrArg _ heq, by simpa using hbest.fits_self, fun k hk hlt => ?_, hbest.ne⟩
    simpa using hbest.key_le k hk (by simpa using hlt)
  · exact congrArg _ (neighbor_of_no_candidate hlen hx hlow 0 (by simpa using h))
  · obtain ⟨n, hbest, heq⟩ := neighbor_of_candidate hlen hx hhigh 1 (by simpa using h)
    refine ⟨n, hbest.lt, congrArg _ heq, by simpa using hbest.fits_self, fun k hk hlt => ?_, hbest.ne⟩
    simpa using hbest.key_le k hk (by simpa using hlt)
  · exact congrArg _ (neighbor_of_no_candidate hlen hx hhigh 1 (by simpa using h))

/-! ## render_point and render_line -/

theorem exec_renderPoint (s : State) : exec .renderPoint s = execRenderPoint s := rfl
theorem exec_renderLine (s : State) : exec .renderLine s = execRenderLine s := rfl

theorem renderPoint_eq_none {x0 y0 x1 y1 x : Int} (h : x0 = x1) : renderPoint x0 y0 x1 y1 x = none :=
  if_pos (by omega)

theorem renderPoint_eq_some {x0 y0 x1 y1 x : Int} (h : x0 ≠ x1) :
    renderPoint x0 y0 x1 y1 x =
      some (if y1 - y0 < 0 then y0 - ((y1 - y0).natAbs * (x - x0)).tdiv (x1 - x0)
        else y0 + ((y1 - y0).natAbs * (x - x0)).tdiv (x1 - x0)) :=
  if_neg (by omega)

theorem fitsI32_iff {y : Int} : fitsI32 y = true ↔ -2 ^ 31 ≤ y ∧ y < 2 ^ 31 := by
  simp [fitsI32]

theorem toInt_ofI32 {y : Int} (hlo : -2 ^ 31 ≤ y) (hhi : y < 2 ^ 31) : (Word.ofI32 y).toInt = y :=
  BitVec.toInt_ofInt_eq_self (by decide) hlo hhi

section
variable {s : State}

theorem execRenderPoint_of_none
    (h : renderPoint s.op0.toInt s.op1.toInt s.op2.toInt s.op3.toInt s.op4.toInt = none) :
    execRenderPoint s = .next (s.afterError 15 4 0 0) := by
  simp [execRenderPoint, h, State.violation_eq]

section
variable {y : Int} (h : renderPoint s.op0.toInt s.op1.toInt s.op2.toInt s.op3.toInt s.op4.toInt = some y)
include h

theorem execRenderPoint_of_fits (hy : -2 ^ 31 ≤ y ∧ y < 2 ^ 31) :
    execRenderPoint s = .next (s.afterSuccess (Word.ofI32 y) 0) := by
  simp [execRenderPoint, h, fitsI32_iff.mpr hy, State.complete_eq]

theorem execRenderPoint_of_not_fits (hy : ¬ (-2 ^ 31 ≤ y ∧ y < 2 ^ 31)) :
    execRenderPoint s = .next (s.afterError 15 5 0 0) := by
  simp [execRenderPoint, h, mt fitsI32_iff.mp hy, State.violation_eq]

end

end

/-- The offset of R184 between the line's ends, whichever way round they are given: a share of the rise's magnitude
`a`, none of it at `x0` and all of it at `x1`. -/
theorem tdiv_share_bounds {a x0 x1 x : Int} (ha : 0 ≤ a) (hne : x0 ≠ x1) (hlo : min x0 x1 ≤ x) (hhi : x ≤ max x0 x1) :
    0 ≤ (a * (x - x0)).tdiv (x1 - x0) ∧ (a * (x - x0)).tdiv (x1 - x0) ≤ a ∧
      (x = x0 → (a * (x - x0)).tdiv (x1 - x0) = 0) ∧ (x = x1 → (a * (x - x0)).tdiv (x1 - x0) = a) := by
  have hshare {t d : Int} (hd : 0 < d) (ht : 0 ≤ t) (htd : t ≤ d) : 0 ≤ (a * t).tdiv d ∧ (a * t).tdiv d ≤ a := by
    rw [Int.tdiv_eq_ediv_of_nonneg (Int.mul_nonneg ha ht)]
    exact ⟨Int.ediv_nonneg (Int.mul_nonneg ha ht) (Int.le_of_lt hd),
      Int.ediv_le_of_le_mul hd (Int.mul_le_mul_of_nonneg_left htd ha)⟩
  have hbounds : 0 ≤ (a * (x - x0)).tdiv (x1 - x0) ∧ (a * (x - x0)).tdiv (x1 - x0) ≤ a := by
    rcases Int.lt_or_gt_of_ne hne with hlt | hgt
    · exact hshare (by omega) (by omega) (by omega)
    · rw [← Int.neg_tdiv_neg, ← Int.mul_neg]
      exact hshare (by omega) (by omega) (by omega)
  refine ⟨hbounds.1, hbounds.2, ?_, ?_⟩
  · rintro rfl
    simp
  · rintro rfl
    exact Int.mul_tdiv_cancel a (by omega)

/-- Between the line's ends R184 gives a value between its heights, and it meets both ends. -/
theorem renderPoint_between {x0 y0 x1 y1 x : Int} (hne : x0 ≠ x1) (hlo : min x0 x1 ≤ x) (hhi : x ≤ max x0 x1) :
    ∃ y, renderPoint x0 y0 x1 y1 x = some y ∧ min y0 y1 ≤ y ∧ y ≤ max y0 y1 ∧
      (x = x0 → y = y0) ∧ (x = x1 → y = y1) := by
  obtain ⟨h0, ha, hat0, hat1⟩ := tdiv_share_bounds (a := (y1 - y0).natAbs) (by omega) hne hlo hhi
  refine ⟨_, renderPoint_eq_some hne, ?_⟩
  generalize ((y1 - y0).natAbs * (x - x0)).tdiv (x1 - x0) = off at h0 ha hat0 hat1
  split <;>
    exact ⟨by omega, by omega, fun h => by have := hat0 h; omega, fun h => by have := hat1 h; omega⟩

/-- Settles O17: the value of R184, its check against i32, and its bounds between the ends. -/
theorem renderPointInterpolates : Obligations.RenderPointInterpolates := by
  rintro s x0 y0 x1 y1 x off y rfl rfl rfl rfl rfl rfl rfl
  rw [exec_renderPoint]
  refine ⟨fun h => execRenderPoint_of_none (renderPoint_eq_none h),
    fun h hlo hhi => execRenderPoint_of_fits (renderPoint_eq_some h) ⟨hlo, hhi⟩,
    fun h hout => execRenderPoint_of_not_fits (renderPoint_eq_some h) (by omega), fun h hlo hhi => ?_⟩
  obtain ⟨y, hy, hmin, hmax, h0, h1⟩ := renderPoint_between (y0 := s.op1.toInt) (y1 := s.op3.toInt) h hlo hhi
  have hfits : -2 ^ 31 ≤ y ∧ y < 2 ^ 31 := by
    have := s.op1.le_toInt
    have := s.op1.toInt_lt
    have := s.op3.le_toInt
    have := s.op3.toInt_lt
    omega
  refine ⟨Word.ofI32 y, execRenderPoint_of_fits hy hfits, ?_⟩
  rw [toInt_ofI32 hfits.1 hfits.2]
  exact ⟨hmin, hmax, h0, h1⟩

/-- The loop of R187 writes the next `n` elements in order. -/
theorem map_fst_lineLoop (base sy ady adx : Int) (n x : Nat) (y err : Int) :
    (lineLoop base sy ady adx n x y err).map Prod.fst = List.range' x n := by
  induction n generalizing x y err with
  | zero => rfl
  | succ n ih =>
    unfold lineLoop
    split <;> simp [ih, List.range'_succ]

/-- A line writes every element of `x0..x1`. -/
theorem mem_map_fst_renderLine {x0 x1 x : Nat} {y0 y1 : Int} (h0 : x0 ≤ x) (h1 : x < x1) :
    x ∈ (renderLine x0 y0 x1 y1).map Prod.fst := by
  simp only [renderLine, List.map_cons, map_fst_lineLoop, List.mem_cons, List.mem_range'_1]
  omega

/-- A line that is not aborted keeps every write. -/
theorem writeLine_eq_keepLine (m : Memory) (e : Nat) (writes : List (Nat × Int)) :
    writeLine m writes = keepLine e (fun _ => true) m writes := rfl

/-- A written element holds one of the values written to it. -/
theorem word_writeLine (m : Memory) (e : Nat) {writes : List (Nat × Int)} {x : Nat} (h : x ∈ writes.map Prod.fst) :
    ∃ y, (x, y) ∈ writes ∧ (writeLine m writes).word e (lineOffset x) = Word.ofI32 y := by
  induction writes generalizing m with
  | nil => cases h
  | cons w rest ih =>
    have hfirst : writeLine m (w :: rest) = writeLine (m.setWord (lineOffset w.1) (Word.ofI32 w.2)) rest := rfl
    rw [hfirst]
    by_cases hx : w.1 = x
    · subst hx
      rw [writeLine_eq_keepLine _ e]
      rcases word_keepLine e (fun _ => true) (m.setWord (lineOffset w.1) (Word.ofI32 w.2)) rest w.1 with
        hold | ⟨y, hy, hnew⟩
      · exact ⟨w.2, List.mem_cons_self, hold.trans (Memory.word_setWord _ _ _ _)⟩
      · exact ⟨y, List.mem_cons_of_mem _ hy, hnew⟩
    · obtain ⟨y, hy, hword⟩ := ih _ ((List.mem_cons.mp h).resolve_left (Ne.symm hx))
      exact ⟨y, List.mem_cons_of_mem _ hy, hword⟩

theorem execRenderLine_of_inBounds {s : State} (hcap : s.lineLen.toNat ≤ s.params.lineCap)
    (h : s.lineInBounds = true) :
    execRenderLine s = .next (({ s with mem := writeLine s.mem s.lineWrites }).afterSuccess 0 0) := by
  simp [execRenderLine, Nat.not_lt.mpr hcap, h, State.complete_eq]

/-- Settles O18: the line writes each of its elements, only those, and each with the value of `renderPoint`. -/
theorem renderLineDrawsRenderPoint : Obligations.RenderLineDrawsRenderPoint := by
  intro s hcap h0 hlt hlen
  have hop0 := toInt_of_nonneg h0
  have hop2 := toInt_of_nonneg (w := s.op2) (by omega)
  refine ⟨writeLine s.mem s.lineWrites,
    execRenderLine_of_inBounds hcap ((lineInBounds_iff s).mpr ⟨h0, hlt, hlen⟩), fun x hx0 hx1 => ?_, fun a ha => ?_⟩
  · have hmem : x ∈ s.lineWrites.map Prod.fst := by
      unfold State.lineWrites Word.i32
      rw [hop0, hop2]
      exact mem_map_fst_renderLine hx0 hx1
    obtain ⟨y, hy, hword⟩ := word_writeLine s.mem s.resets hmem
    obtain ⟨-, -, hpoint⟩ := mem_lineWrites h0 hlt hy
    obtain ⟨y', hpoint', hmin, hmax, -, -⟩ :=
      renderPoint_between (y0 := s.op1.toInt) (y1 := s.op3.toInt) (x := x) (Int.ne_of_lt hlt) (by omega) (by omega)
    obtain rfl : y' = y := Option.some.inj (hpoint'.symm.trans hpoint)
    exact ⟨y', hpoint, hmin, hmax, hword⟩
  · refine byte_writeLine_ne s.mem s.resets a s.lineWrites fun w hw => ?_
    obtain ⟨hx0, hx1, -⟩ := mem_lineWrites h0 hlt hw
    unfold lineOffset at *
    omega

end Sys2Proof.Machine

/-! # The Huffman commands (42_huffman.md) -/

namespace Sys2Proof.Machine

theorem exec_huffClear (s : State) : exec .huffClear s = execHuffClear s := rfl
theorem exec_huffAddNode (s : State) : exec .huffAddNode s = execHuffAddNode s := rfl

/-- Settles O19: the words of the one node by `nodeWord`, and no node beyond it. -/
theorem huffClearEmptiesArena : Obligations.HuffClearEmptiesArena := by
  intro s
  exact ⟨_, exec_huffClear s, rfl, rfl, rfl, rfl, rfl, rfl, fun n w hn => huffWord_of_length_le hn w⟩

/-! ## The codeword order -/

theorem codewordValue_foldl (v : Nat) (w : List Bool) :
    w.foldl (fun v b => 2 * v + b.toNat) v = v * 2 ^ w.length + codewordValue w := by
  unfold codewordValue
  induction w generalizing v with
  | nil => simp
  | cons b w ih =>
    have hshift : 2 * v * 2 ^ w.length = v * 2 ^ (w.length + 1) := by
      rw [Nat.pow_succ, Nat.mul_comm 2 v, Nat.mul_assoc, Nat.mul_comm 2]
    rw [List.foldl_cons, List.foldl_cons, ih, ih (2 * 0 + b.toNat), List.length_cons, Nat.add_mul, hshift,
      Nat.mul_zero, Nat.zero_add, Nat.add_assoc]

theorem codewordValue_cons (b : Bool) (w : List Bool) :
    codewordValue (b :: w) = b.toNat * 2 ^ w.length + codewordValue w := by
  rw [← codewordValue_foldl, codewordValue, List.foldl_cons, Nat.mul_zero, Nat.zero_add]

theorem codewordValue_lt (w : List Bool) : codewordValue w < 2 ^ w.length := by
  induction w with
  | nil => exact Nat.one_pos
  | cons b w ih =>
    rw [codewordValue_cons, List.length_cons, Nat.pow_succ]
    cases b <;> simp <;> omega

theorem codewordValue_replicate_false (n : Nat) : codewordValue (List.replicate n false) = 0 := by
  induction n with
  | zero => rfl
  | succ n ih => simp [List.replicate_succ, codewordValue_cons, ih]

theorem codewordValue_cons_le {b : Bool} {v w : List Bool} (hlen : v.length = w.length) :
    codewordValue (b :: v) ≤ codewordValue (b :: w) ↔ codewordValue v ≤ codewordValue w := by
  simp [codewordValue_cons, hlen]

/-- A left branch comes before a right one, whatever follows. -/
theorem codewordValue_false_lt_true {v w : List Bool} (hlen : v.length = w.length) :
    codewordValue (false :: v) < codewordValue (true :: w) := by
  have := codewordValue_lt v
  simp only [codewordValue_cons, Bool.toNat_false, Bool.toNat_true, ← hlen]
  omega

/-- Codewords of one length with one value are one path. -/
theorem codewordValue_inj {v w : List Bool} (hlen : v.length = w.length) (h : codewordValue v = codewordValue w) :
    v = w := by
  induction v generalizing w with
  | nil => exact (List.length_eq_zero_iff.mp hlen.symm).symm
  | cons b v ih =>
    cases w with
    | nil => cases hlen
    | cons c w =>
      replace hlen : v.length = w.length := Nat.succ.inj hlen
      match b, c with
      | false, true => exact absurd h (Nat.ne_of_lt (codewordValue_false_lt_true hlen))
      | true, false => exact absurd h (Nat.ne_of_gt (codewordValue_false_lt_true hlen.symm))
      | false, false | true, true =>
        rw [codewordValue_cons, codewordValue_cons, hlen] at h
        rw [ih hlen (Nat.add_left_cancel h)]

/-- A least codeword of a set of paths, or none when the set is empty. -/
def IsLeastOf (P : List Bool → Prop) : Option (List Bool) → Prop
  | none => ∀ w, ¬ P w
  | some w => P w ∧ ∀ w', P w' → codewordValue w ≤ codewordValue w'

theorem IsLeastOf.congr {P Q : List Bool → Prop} {o : Option (List Bool)} (h : IsLeastOf P o)
    (hPQ : ∀ w, P w ↔ Q w) : IsLeastOf Q o := (funext fun w => propext (hPQ w)) ▸ h

/-- One branch put before paths of one length keeps their order. -/
theorem IsLeastOf.cons {P : List Bool → Prop} {o : Option (List Bool)} (h : IsLeastOf P o) {n : Nat}
    (hlen : ∀ v, P v → v.length = n) (b : Bool) : IsLeastOf (fun w => ∃ v, w = b :: v ∧ P v) (o.map (b :: ·)) := by
  cases o with
  | none => exact fun w ⟨v, _, hv⟩ => h v hv
  | some u =>
    obtain ⟨hu, hle⟩ := h
    refine ⟨⟨u, rfl, hu⟩, ?_⟩
    rintro _ ⟨v, rfl, hv⟩
    exact (codewordValue_cons_le ((hlen u hu).trans (hlen v hv).symm)).mpr (hle v hv)

/-- Of two sets of paths the one whose paths come first is asked first. -/
theorem IsLeastOf.or {P Q : List Bool → Prop} {o o' : Option (List Bool)} (ho : IsLeastOf P o) (ho' : IsLeastOf Q o')
    (hle : ∀ v w, P v → Q w → codewordValue v ≤ codewordValue w) : IsLeastOf (fun w => P w ∨ Q w) (o.or o') := by
  cases o with
  | some v => exact ⟨.inl ho.1, fun w hw => hw.elim (ho.2 w) (hle v w ho.1)⟩
  | none =>
    cases o' with
    | some v => exact ⟨.inr ho'.1, fun w hw => ho'.2 w (hw.resolve_left (ho w))⟩
    | none => exact fun w hw => hw.elim (ho w) (ho' w)

/-! ## Paths -/

@[simp] theorem walk_nil (t : HuffTree) (n : Nat) : walk t n [] = some n := rfl

theorem walk_cons (t : HuffTree) (n : Nat) (b : Bool) (p : List Bool) :
    walk t n (b :: p) = (childOf t n b).bind fun c => walk t c p := by
  rw [walk]
  cases childOf t n b <;> rfl

theorem walk_concat (t : HuffTree) (n : Nat) (p : List Bool) (b : Bool) :
    walk t n (p ++ [b]) = (walk t n p).bind fun m => childOf t m b := by
  induction p generalizing n with
  | nil => simp [walk_cons]
  | cons c p ih => simp only [List.cons_append, walk_cons, ih, Option.bind_assoc]

/-- A child index is one of its parent's children. -/
theorem mem_children_of_childOf {t : HuffTree} {n c : Nat} {b : Bool} (h : childOf t n b = some c) :
    ∃ l r, t[n]? = some (.internal l r) ∧ c ∈ (HuffNode.internal l r).children ∧ (if b then r else l) = some c := by
  obtain ⟨x, hx, hc⟩ := Option.bind_eq_some_iff.mp h
  cases x with
  | leaf _ => cases hc
  | internal l r =>
    refine ⟨l, r, hx, ?_, hc⟩
    cases b <;> simp_all [nodeChild, HuffNode.children]

theorem childOf_lt {t : HuffTree} (ht : t.wf) {n c : Nat} {b : Bool} (h : childOf t n b = some c) : n < c := by
  obtain ⟨l, r, hn, hc, -⟩ := mem_children_of_childOf h
  obtain ⟨-, hup, -⟩ := ht
  exact (hup n (List.getElem?_eq_some_iff.mp hn).1 c (by simpa [hn] using hc)).1

/-- R51's last clause: no child index occurs twice. -/
theorem nodup_children_of_wf {t : HuffTree} (ht : t.wf) : (t.flatMap HuffNode.children).Nodup := by
  refine List.nodup_iff_count.mpr fun c => ?_
  by_cases hc : c ∈ t.flatMap HuffNode.children
  · have hlt := child_lt_of_wf ht hc
    obtain ⟨-, hup, hone⟩ := ht
    obtain ⟨x, hx, hcx⟩ := List.mem_flatMap.mp hc
    obtain ⟨i, hi⟩ := List.mem_iff_getElem?.mp hx
    have hpos := (hup i (List.getElem?_eq_some_iff.mp hi).1 c (by simpa [hi] using hcx)).1
    exact Nat.le_of_eq (hone c hlt (Nat.zero_lt_of_lt hpos))
  · rw [List.count_eq_zero.mpr hc]
    exact Nat.zero_le 1

/-- A node has one parent, on one side of it. -/
theorem childOf_inj {t : HuffTree} (ht : t.wf) {m n c : Nat} {a b : Bool} (hm : childOf t m a = some c)
    (hn : childOf t n b = some c) : m = n ∧ a = b := by
  obtain ⟨l, r, htm, hcm, hsm⟩ := mem_children_of_childOf hm
  obtain ⟨l', r', htn, hcn, hsn⟩ := mem_children_of_childOf hn
  obtain ⟨hnodup, hdisj⟩ := List.pairwise_flatMap.mp (nodup_children_of_wf ht)
  obtain ⟨hlm, hgm⟩ := List.getElem?_eq_some_iff.mp htm
  obtain ⟨hln, hgn⟩ := List.getElem?_eq_some_iff.mp htn
  have hdisj := List.pairwise_iff_getElem.mp hdisj
  rcases Nat.lt_trichotomy m n with hlt | rfl | hlt
  · exact absurd rfl (hdisj m n hlm hln hlt c (hgm ▸ hcm) c (hgn ▸ hcn))
  · obtain ⟨rfl, rfl⟩ : l = l' ∧ r = r' := by simpa [htm] using htn
    refine ⟨rfl, ?_⟩
    have hsides := hnodup _ (List.mem_of_getElem? htm)
    cases a <;> cases b <;> simp_all [HuffNode.children]
  · exact absurd rfl (hdisj n m hln hlm hlt c (hgn ▸ hcn) c (hgm ▸ hcm))

theorem walk_concat_ne_root {t : HuffTree} (ht : t.wf) (n : Nat) (p : List Bool) (b : Bool) :
    walk t n (p ++ [b]) ≠ some 0 := by
  intro h
  rw [walk_concat] at h
  obtain ⟨m, -, hc⟩ := Option.bind_eq_some_iff.mp h
  exact Nat.not_lt_zero m (childOf_lt ht hc)

/-- Induction on the last branch of a path. -/
theorem path_induction {motive : List Bool → Prop} (nil : motive [])
    (concat : ∀ p b, motive p → motive (p ++ [b])) (p : List Bool) : motive p := by
  rw [← List.reverse_reverse p]
  induction p.reverse with
  | nil => exact nil
  | cons b p ih => rw [List.reverse_cons]; exact concat p.reverse b ih

/-- In a tree of R51 a node has one path from the root. -/
theorem walk_root_inj {t : HuffTree} (ht : t.wf) {p q : List Bool} {n : Nat} (hp : walk t 0 p = some n)
    (hq : walk t 0 q = some n) : p = q := by
  induction p using path_induction generalizing q n with
  | nil =>
    obtain rfl : 0 = n := Option.some.inj hp
    cases q using path_induction with
    | nil => rfl
    | concat q b _ => exact absurd hq (walk_concat_ne_root ht 0 q b)
  | concat p a ih =>
    cases q using path_induction with
    | nil =>
      obtain rfl : 0 = n := Option.some.inj hq
      exact absurd hp (walk_concat_ne_root ht 0 p a)
    | concat q b _ =>
      rw [walk_concat] at hp hq
      obtain ⟨m, hm, hc⟩ := Option.bind_eq_some_iff.mp hp
      obtain ⟨m', hm', hc'⟩ := Option.bind_eq_some_iff.mp hq
      obtain ⟨rfl, rfl⟩ := childOf_inj ht hc hc'
      rw [ih hm hm']

/-- A path that is free below node `n`, as `FreePath` has it below the root. -/
def FreeFrom (t : HuffTree) (n : Nat) (path : List Bool) : Prop :=
  walk t n path = none ∧ ∀ start m, start <+: path → walk t n start = some m → isInternalAt t m = true

theorem freePath_iff (t : HuffTree) (w : List Bool) : FreePath t w ↔ FreeFrom t 0 w := Iff.rfl

theorem not_freeFrom_nil (t : HuffTree) (n : Nat) : ¬ FreeFrom t n [] := fun h => nomatch h.1

/-- A free path begins at an internal node. -/
theorem FreeFrom.internal {t : HuffTree} {n : Nat} {w : List Bool} (h : FreeFrom t n w) :
    isInternalAt t n = true := h.2 [] n List.nil_prefix rfl

theorem freeFrom_cons {t : HuffTree} {n : Nat} {b : Bool} {w : List Bool} :
    FreeFrom t n (b :: w) ↔ isInternalAt t n = true ∧ ∀ c, childOf t n b = some c → FreeFrom t c w := by
  constructor
  · rintro ⟨hnone, hint⟩
    refine ⟨FreeFrom.internal ⟨hnone, hint⟩, fun c hc => ?_⟩
    refine ⟨by simpa [walk_cons, hc] using hnone, fun start m hs hm => ?_⟩
    exact hint (b :: start) m (List.cons_prefix_cons.mpr ⟨rfl, hs⟩) (by simpa [walk_cons, hc] using hm)
  · rintro ⟨hint, hbelow⟩
    refine ⟨?_, fun start m hs hm => ?_⟩
    · rw [walk_cons]
      exact Option.bind_eq_none_iff.mpr fun c hc => (hbelow c hc).1
    · rcases List.prefix_cons_iff.mp hs with rfl | ⟨start, rfl, hstart⟩
      · exact Option.some.inj hm ▸ hint
      · rw [walk_cons] at hm
        obtain ⟨c, hc, hm⟩ := Option.bind_eq_some_iff.mp hm
        exact (hbelow c hc).2 start m hstart hm

/-- A free path leaves the tree at a free side of an internal node. -/
theorem FreeFrom.split {t : HuffTree} {n : Nat} {w : List Bool} (h : FreeFrom t n w) :
    ∃ p b rest m, w = p ++ b :: rest ∧ walk t n p = some m ∧ isInternalAt t m = true ∧ childOf t m b = none := by
  induction w generalizing n with
  | nil => exact absurd h (not_freeFrom_nil t n)
  | cons b w ih =>
    obtain ⟨hint, hbelow⟩ := freeFrom_cons.mp h
    cases hc : childOf t n b with
    | none => exact ⟨[], b, w, n, rfl, rfl, hint, hc⟩
    | some c =>
      obtain ⟨p, b', rest, m, rfl, hm, hm'⟩ := ih (hbelow c hc)
      exact ⟨b :: p, b', rest, m, rfl, by simpa [walk_cons, hc] using hm, hm'⟩

/-! ## Growing the tree along a path -/

/-- The node hung at the end of a branch: the leaf when the path ends there, else an internal node. -/
def hungNode (s : Word) : List Bool → HuffNode
  | [] => .leaf s
  | _ :: _ => .internal none none

theorem children_hungNode (s : Word) (rest : List Bool) : (hungNode s rest).children = [] := by cases rest <;> rfl

theorem nodeChild_hungNode (s : Word) (rest : List Bool) (b : Bool) : nodeChild (hungNode s rest) b = none := by
  cases rest <;> cases b <;> rfl

/-- The tree with the missing nodes of a path below node `n` appended in order, the leaf last. -/
def graft (s : Word) : HuffTree → Nat → List Bool → HuffTree
  | t, _, [] => t
  | t, n, b :: rest =>
    match childOf t n b with
    | some c => graft s t c rest
    | none => graft s (allocUnder t n b (hungNode s rest)) t.length rest

section
variable {t : HuffTree} {n : Nat} {b : Bool}

theorem graft_cons_of_child {s : Word} {c : Nat} (h : childOf t n b = some c) (rest : List Bool) :
    graft s t n (b :: rest) = graft s t c rest := by simp [graft, h]

theorem graft_cons_of_free {s : Word} (h : childOf t n b = none) (rest : List Bool) :
    graft s t n (b :: rest) = graft s (allocUnder t n b (hungNode s rest)) t.length rest := by simp [graft, h]

/-- Nodes that exist are walked, not changed. -/
theorem graft_append {s : Word} {p : List Bool} {m : Nat} (h : walk t n p = some m) (w : List Bool) :
    graft s t n (p ++ w) = graft s t m w := by
  induction p generalizing n with
  | nil =>
    obtain rfl : n = m := Option.some.inj h
    rfl
  | cons b p ih =>
    rw [walk_cons] at h
    obtain ⟨c, hc, h⟩ := Option.bind_eq_some_iff.mp h
    rw [List.cons_append, graft_cons_of_child hc, ih h]

variable (hn : isInternalAt t n = true)
include hn

theorem length_allocUnder (b : Bool) (node : HuffNode) : (allocUnder t n b node).length = t.length + 1 := by
  obtain ⟨l, r, hn⟩ := isInternalAt_iff.mp hn
  simp [allocUnder_of_internal hn]

theorem getElem?_allocUnder_length (b : Bool) (node : HuffNode) :
    (allocUnder t n b node)[t.length]? = some node := by
  obtain ⟨l, r, hn⟩ := isInternalAt_iff.mp hn
  simp [allocUnder_of_internal hn]

/-- Of the nodes a tree had, only the parent of a new node changes. -/
theorem getElem?_allocUnder_ne {b : Bool} {node : HuffNode} {i : Nat} (hi : i < t.length) (hne : i ≠ n) :
    (allocUnder t n b node)[i]? = t[i]? := by
  obtain ⟨l, r, hn⟩ := isInternalAt_iff.mp hn
  simp [allocUnder_of_internal hn, List.getElem?_append_left, hi, Ne.symm hne]

theorem getElem?_allocUnder_leaf {b : Bool} {node : HuffNode} {i : Nat} (hi : i < t.length) (x : Word) :
    (allocUnder t n b node)[i]? = some (.leaf x) ↔ t[i]? = some (.leaf x) := by
  by_cases hin : i = n
  · subst hin
    obtain ⟨l, r, hn⟩ := isInternalAt_iff.mp hn
    have hget := (List.getElem?_eq_some_iff.mp hn).2
    cases b <;> simp [allocUnder_of_internal hn, withChild, List.getElem?_append_left, hi, hget]
  · rw [getElem?_allocUnder_ne hn hi hin]

theorem childOf_allocUnder {b : Bool} {node : HuffNode} {m : Nat} (hm : m < t.length) (c : Bool) :
    childOf (allocUnder t n b node) m c = if m = n ∧ c = b then some t.length else childOf t m c := by
  by_cases hmn : m = n
  · subst hmn
    obtain ⟨l, r, hn⟩ := isInternalAt_iff.mp hn
    have hget := (List.getElem?_eq_some_iff.mp hn).2
    cases b <;> cases c <;>
      simp [childOf, nodeChild, allocUnder_of_internal hn, withChild, List.getElem?_append_left, hm, hget]
  · simp [childOf, getElem?_allocUnder_ne hn hm hmn, hmn]

end

theorem childOf_lt_length {t : HuffTree} (ht : t.wf) {n c : Nat} {b : Bool} (h : childOf t n b = some c) :
    c < t.length := by
  obtain ⟨l, r, hn, hc, -⟩ := mem_children_of_childOf h
  exact child_lt_of_wf ht (List.mem_flatMap.mpr ⟨_, List.mem_of_getElem? hn, hc⟩)

/-- A path from a node of the tree leads to nodes of the tree. -/
theorem walk_lt_length {t : HuffTree} (ht : t.wf) {p : List Bool} {n m : Nat} (hn : n < t.length)
    (h : walk t n p = some m) : m < t.length := by
  induction p generalizing n with
  | nil =>
    obtain rfl : n = m := Option.some.inj h
    exact hn
  | cons b p ih =>
    rw [walk_cons] at h
    obtain ⟨c, hc, h⟩ := Option.bind_eq_some_iff.mp h
    exact ih (childOf_lt_length ht hc) h

theorem root_lt_length {t : HuffTree} (ht : t.wf) : 0 < t.length := by
  obtain ⟨l, r, hroot⟩ := isInternalAt_iff.mp (isInternalAt_root ht)
  exact (List.getElem?_eq_some_iff.mp hroot).1

/-- A place to grow: node `n` has the path `q`, and the first branch of `w` is a free side of it. -/
structure GrowsAt (t : HuffTree) (q : List Bool) (n : Nat) (w : List Bool) : Prop where
  wf : t.wf
  path : walk t 0 q = some n
  room : ∀ b rest, w = b :: rest → isInternalAt t n = true ∧ childOf t n b = none

namespace GrowsAt

variable {s : Word} {t : HuffTree} {q : List Bool} {n : Nat} {b : Bool} {w rest : List Bool}

/-- One new childless node adds one path, the one that leads to it. -/
theorem walk_allocUnder (h : GrowsAt t q n (b :: rest)) {node : HuffNode} (hnode : ∀ c, nodeChild node c = none)
    (p : List Bool) :
    walk (allocUnder t n b node) 0 p = if p = q ++ [b] then some t.length else walk t 0 p := by
  obtain ⟨hn, hfree⟩ := h.room b rest rfl
  induction p using path_induction with
  | nil => simp [walk]
  | concat p c ih =>
    rw [walk_concat, walk_concat, ih]
    by_cases hp : p = q ++ [b]
    · subst hp
      have hnew : childOf (allocUnder t n b node) t.length c = none := by
        simp [childOf, getElem?_allocUnder_length hn, hnode]
      simp [hnew, walk_concat, h.path, hfree]
    · rw [if_neg hp]
      cases hm : walk t 0 p with
      | none =>
        rw [Option.bind_none, Option.bind_none, if_neg]
        rintro heq
        rw [(List.append_inj' heq rfl).1, h.path] at hm
        cases hm
      | some m =>
        have hpq : p = q ↔ m = n := by
          constructor
          · rintro rfl
            exact Option.some.inj (hm.symm.trans h.path)
          · rintro rfl
            exact walk_root_inj h.wf hm h.path
        simp [childOf_allocUnder hn (walk_lt_length h.wf (root_lt_length h.wf) hm), hpq]

theorem walk_hung (h : GrowsAt t q n (b :: rest)) (s : Word) (p : List Bool) :
    walk (allocUnder t n b (hungNode s rest)) 0 p = if p = q ++ [b] then some t.length else walk t 0 p :=
  h.walk_allocUnder (nodeChild_hungNode s rest) p

/-- Growth goes on at the node just hung. -/
theorem next (h : GrowsAt t q n (b :: rest)) (s : Word) :
    GrowsAt (allocUnder t n b (hungNode s rest)) (q ++ [b]) t.length rest := by
  obtain ⟨hn, hfree⟩ := h.room b rest rfl
  refine ⟨wf_allocUnder h.wf hn hfree (children_hungNode s rest), by rw [h.walk_hung, if_pos rfl], ?_⟩
  rintro c rest rfl
  exact ⟨isInternalAt_allocUnder hn _ _ _, by simp [childOf, getElem?_allocUnder_length hn, nodeChild_hungNode]⟩

theorem graft_cons (h : GrowsAt t q n (b :: rest)) (s : Word) :
    graft s t n (b :: rest) = graft s (allocUnder t n b (hungNode s rest)) t.length rest :=
  graft_cons_of_free (h.room b rest rfl).2 rest

theorem length_graft (h : GrowsAt t q n w) : (graft s t n w).length = t.length + w.length := by
  induction w generalizing t q n with
  | nil => rfl
  | cons b rest ih =>
    rw [h.graft_cons, ih (h.next s), length_allocUnder (h.room b rest rfl).1, List.length_cons]
    omega

theorem wf_graft (h : GrowsAt t q n w) : (graft s t n w).wf := by
  induction w generalizing t q n with
  | nil => exact h.wf
  | cons b rest ih =>
    rw [h.graft_cons]
    exact ih (h.next s)

/-- A path to a node stays. -/
theorem walk_graft_of_some (h : GrowsAt t q n w) {p : List Bool} {m : Nat} (hp : walk t 0 p = some m) :
    walk (graft s t n w) 0 p = some m := by
  induction w generalizing t q n with
  | nil => exact hp
  | cons b rest ih =>
    rw [h.graft_cons]
    refine ih (h.next s) ?_
    rw [h.walk_hung, if_neg, hp]
    rintro rfl
    simp [walk_concat, h.path, (h.room b rest rfl).2] at hp

/-- A path that is not on the way to the new leaf stays, whether it leads to a node or not. -/
theorem walk_graft_of_not_prefix (h : GrowsAt t q n w) {p : List Bool} (hp : ¬ p <+: q ++ w) :
    walk (graft s t n w) 0 p = walk t 0 p := by
  induction w generalizing t q n with
  | nil => rfl
  | cons b rest ih =>
    rw [List.append_cons] at hp
    rw [h.graft_cons, ih (h.next s) hp, h.walk_hung, if_neg]
    rintro rfl
    exact hp (List.prefix_append _ _)

/-- The whole path leads to the node appended last, the leaf. -/
theorem walk_graft_self (h : GrowsAt t q n w) (hw : w ≠ []) :
    walk (graft s t n w) 0 (q ++ w) = some ((graft s t n w).length - 1) ∧
      (graft s t n w)[(graft s t n w).length - 1]? = some (.leaf s) := by
  induction w generalizing t q n with
  | nil => exact absurd rfl hw
  | cons b rest ih =>
    have hn := (h.room b rest rfl).1
    rw [h.graft_cons, List.append_cons]
    cases rest with
    | nil =>
      simp only [graft, List.append_nil, length_allocUnder hn, Nat.add_sub_cancel]
      exact ⟨(h.next s).path, getElem?_allocUnder_length hn b _⟩
    | cons c rest => exact ih (h.next s) (List.cons_ne_nil c rest)

/-- The old leaves are the new tree's leaves at the old indices. -/
theorem getElem?_graft_leaf (h : GrowsAt t q n w) {i : Nat} (hi : i < t.length) (x : Word) :
    (graft s t n w)[i]? = some (.leaf x) ↔ t[i]? = some (.leaf x) := by
  induction w generalizing t q n with
  | nil => rfl
  | cons b rest ih =>
    have hn := (h.room b rest rfl).1
    rw [h.graft_cons, ih (h.next s) (by rw [length_allocUnder hn]; omega), getElem?_allocUnder_leaf hn hi]

end GrowsAt

/-! ## The search of R211 is a search for the least free path -/

/-- The search at one side, with the search one level down given. -/
def leastFreeSide (below : Nat → Option (List Bool)) (t : HuffTree) (rem n : Nat) (side : Bool) :
    Option (List Bool) :=
  match childOf t n side with
  | none => some (side :: List.replicate rem false)
  | some c => if isInternalAt t c then (below c).map (side :: ·) else none

/-- The first free path of a length below a node, left before right, on a tree that stays as it is. -/
def leastFree (t : HuffTree) : Nat → Nat → Option (List Bool)
  | 0, _ => none
  | rem + 1, n =>
    (leastFreeSide (leastFree t rem) t rem n false).or (leastFreeSide (leastFree t rem) t rem n true)

/-- Below a node without children the first free path goes left throughout. -/
theorem leastFree_of_childless {t : HuffTree} {n : Nat} (h : ∀ b, childOf t n b = none) (rem : Nat) :
    leastFree t (rem + 1) n = some (List.replicate (rem + 1) false) := by
  simp [leastFree, leastFreeSide, h, List.replicate_succ]

/-- The answer of R211 for a path: the grown tree, its last node, and the path. -/
def Inserted.along (s : Word) (t : HuffTree) (n : Nat) (path : List Bool) : Inserted :=
  ⟨graft s t n path, (graft s t n path).length - 1, path⟩

theorem Inserted.under_along_of_child {s : Word} {t : HuffTree} {n c : Nat} {b : Bool} (h : childOf t n b = some c)
    (w : List Bool) : (Inserted.along s t c w).under b = Inserted.along s t n (b :: w) := by
  simp [Inserted.along, Inserted.under, graft_cons_of_child h]

theorem Inserted.under_along_of_free {s : Word} {t : HuffTree} {n : Nat} {b : Bool} (h : childOf t n b = none)
    (w : List Bool) :
    (Inserted.along s (allocUnder t n b (hungNode s w)) t.length w).under b = Inserted.along s t n (b :: w) := by
  simp [Inserted.along, Inserted.under, graft_cons_of_free h]

theorem Inserted.along_leaf {s : Word} {t : HuffTree} {n : Nat} {b : Bool} (hn : isInternalAt t n = true)
    (h : childOf t n b = none) : Inserted.along s t n [b] = ⟨allocUnder t n b (.leaf s), t.length, [b]⟩ := by
  have hgraft : graft s t n [b] = allocUnder t n b (.leaf s) := graft_cons_of_free h []
  rw [Inserted.along, hgraft, length_allocUnder hn, Nat.add_sub_cancel]

/-- One side of R211 above the last level, when the level below is known. -/
theorem insSide_eq {s : Word} {rem : Nat} (hbelow : ∀ (t : HuffTree) (n : Nat), isInternalAt t n = true →
      ins s (rem + 1) t n = (leastFree t (rem + 1) n).map (Inserted.along s t n))
    {t : HuffTree} {n : Nat} (hn : isInternalAt t n = true) (b : Bool) :
    insSide s rem t n b = (leastFreeSide (leastFree t (rem + 1)) t (rem + 1) n b).map (Inserted.along s t n) := by
  unfold insSide leastFreeSide
  cases hc : childOf t n b with
  | none =>
    have hchildless (side : Bool) : childOf (allocUnder t n b (.internal none none)) t.length side = none := by
      cases side <;> simp [childOf, getElem?_allocUnder_length hn, nodeChild]
    have hhung : hungNode s (List.replicate (rem + 1) false) = .internal none none := rfl
    simp [hbelow _ _ (isInternalAt_allocUnder hn b none none), leastFree_of_childless hchildless,
      ← Inserted.under_along_of_free hc, hhung]
  | some c =>
    cases hint : isInternalAt t c with
    | false => simp [hint]
    | true => simp [hint, hbelow t c hint, Function.comp_def, Inserted.under_along_of_child hc]

/-- R211's recursion finds the first free path and grows the tree along it. -/
theorem ins_eq (s : Word) {rem : Nat} {t : HuffTree} {n : Nat} (hn : isInternalAt t n = true) :
    ins s rem t n = (leastFree t rem n).map (Inserted.along s t n) := by
  match rem with
  | 0 => rfl
  | 1 =>
    unfold ins
    cases h0 : childOf t n false with
    | none => simp [leastFree, leastFreeSide, h0, Inserted.along_leaf hn h0]
    | some c =>
      cases h1 : childOf t n true with
      | none => simp [leastFree, leastFreeSide, h0, h1, Inserted.along_leaf hn h1]
      | some d => simp [leastFree, leastFreeSide, h0, h1]
  | rem + 2 =>
    have hside := insSide_eq (fun _ _ => ins_eq s (rem := rem + 1)) hn
    rw [ins_add_two, hside, hside, leastFree, Option.map_or]

/-- The free paths of one length below a node. -/
def FreeOfLength (t : HuffTree) (n rem : Nat) (w : List Bool) : Prop := w.length = rem ∧ FreeFrom t n w

/-- Those of them that begin at one side, `rem` levels below it. -/
def FreeAtSide (t : HuffTree) (n rem : Nat) (side : Bool) (w : List Bool) : Prop :=
  ∃ v, w = side :: v ∧ v.length = rem ∧ FreeFrom t n (side :: v)

theorem freeOfLength_succ_iff {t : HuffTree} {n rem : Nat} {w : List Bool} :
    FreeOfLength t n (rem + 1) w ↔ FreeAtSide t n rem false w ∨ FreeAtSide t n rem true w := by
  constructor
  · rintro ⟨hlen, hw⟩
    match w with
    | false :: v => exact .inl ⟨v, rfl, Nat.succ.inj hlen, hw⟩
    | true :: v => exact .inr ⟨v, rfl, Nat.succ.inj hlen, hw⟩
  · rintro (⟨v, rfl, hlen, hw⟩ | ⟨v, rfl, hlen, hw⟩) <;> exact ⟨congrArg (· + 1) hlen, hw⟩

theorem isLeastOf_leastFreeSide {t : HuffTree} {rem n : Nat} {below : Nat → Option (List Bool)}
    (hbelow : ∀ c, isInternalAt t c = true → IsLeastOf (FreeOfLength t c rem) (below c))
    (hn : isInternalAt t n = true) (side : Bool) :
    IsLeastOf (FreeAtSide t n rem side) (leastFreeSide below t rem n side) := by
  unfold leastFreeSide
  split
  next hfree =>
    refine ⟨⟨_, rfl, List.length_replicate, freeFrom_cons.mpr ⟨hn, by simp [hfree]⟩⟩, ?_⟩
    rintro w ⟨v, rfl, hlen, -⟩
    rw [codewordValue_cons_le (by rw [List.length_replicate, hlen]), codewordValue_replicate_false]
    exact Nat.zero_le _
  next c hc =>
    have hiff (v : List Bool) : FreeFrom t n (side :: v) ↔ FreeFrom t c v := by
      simp [freeFrom_cons, hn, hc]
    split
    next hint =>
      exact ((hbelow c hint).congr fun v => and_congr_right fun _ => (hiff v).symm).cons (n := rem)
        (fun v ⟨hlen, _⟩ => hlen) side
    next hint =>
      rintro w ⟨v, -, -, hw⟩
      exact hint ((hiff v).mp hw).internal

/-- R213: the search finds the least free path of its length, or there is none. -/
theorem isLeastOf_leastFree (t : HuffTree) {rem n : Nat} (hn : isInternalAt t n = true) :
    IsLeastOf (FreeOfLength t n rem) (leastFree t rem n) := by
  induction rem generalizing n with
  | zero =>
    rintro w ⟨hlen, hw⟩
    rw [List.length_eq_zero_iff.mp hlen] at hw
    exact not_freeFrom_nil t n hw
  | succ rem ih =>
    have hside := isLeastOf_leastFreeSide (fun c => ih (n := c)) hn
    refine ((hside false).or (hside true) ?_).congr fun w => freeOfLength_succ_iff.symm
    rintro _ _ ⟨v, rfl, hv, -⟩ ⟨w, rfl, hw, -⟩
    exact Nat.le_of_lt (codewordValue_false_lt_true (hv.trans hw.symm))

/-! ## HUFF_ADD_NODE -/

section
variable {t : HuffTree} (ht : t.wf) (s : Word)
include ht

theorem addNode_eq_none {length : Nat} (h : ∀ w : List Bool, w.length = length → ¬ FreePath t w) :
    addNode t length s = none := by
  have hroot := isInternalAt_root ht
  have hleast := isLeastOf_leastFree t (rem := length) hroot
  rw [addNode, ins_eq s hroot]
  cases hf : leastFree t length 0 with
  | none => rfl
  | some w =>
    rw [hf] at hleast
    obtain ⟨⟨hlen, hw⟩, -⟩ := hleast
    exact absurd ((freePath_iff t w).mpr hw) (h w hlen)

theorem addNode_eq_some {w : List Bool} (hw : FreePath t w)
    (hleast : ∀ w' : List Bool, w'.length = w.length → FreePath t w' → codewordValue w ≤ codewordValue w') :
    addNode t w.length s = some (.along s t 0 w) := by
  simp only [freePath_iff] at hw hleast
  have hroot := isInternalAt_root ht
  have hfound := isLeastOf_leastFree t (rem := w.length) hroot
  rw [addNode, ins_eq s hroot]
  cases hf : leastFree t w.length 0 with
  | none =>
    rw [hf] at hfound
    exact absurd ⟨rfl, hw⟩ (hfound w)
  | some v =>
    rw [hf] at hfound
    obtain ⟨⟨hlen, hv⟩, hle⟩ := hfound
    rw [codewordValue_inj hlen (Nat.le_antisymm (hle w ⟨rfl, hw⟩) (hleast v hlen hv)), Option.map_some]

end

section
variable {s : State} (hlo : 1 ≤ s.op0.toNat) (hhi : s.op0.toNat ≤ 32)
include hlo hhi

theorem execHuffAddNode_of_none (h : addNode s.huffWork s.op0.toNat s.op1 = none) :
    execHuffAddNode s = .next (s.afterError 9 s.op1 s.op0 0) := by
  simp [execHuffAddNode, Nat.not_lt.mpr hlo, Nat.not_lt.mpr hhi, h, State.raiseError_eq, ErrKind.code]

section
variable {r : Inserted} (h : addNode s.huffWork s.op0.toNat s.op1 = some r)
include h

theorem execHuffAddNode_of_fits (hcap : r.tree.length ≤ s.params.huffCap) :
    execHuffAddNode s =
      .next (({ s with huffWork := r.tree }).afterSuccess (Word.low r.leaf) (Word.low (codewordValue r.path))) := by
  simp [execHuffAddNode, Nat.not_lt.mpr hlo, Nat.not_lt.mpr hhi, h, Nat.not_lt.mpr hcap, State.complete_eq]

theorem execHuffAddNode_of_not_fits (hcap : s.params.huffCap < r.tree.length) :
    execHuffAddNode s = .next (s.afterError 16 (Word.low r.tree.length) 4 0) := by
  simp [execHuffAddNode, Nat.not_lt.mpr hlo, Nat.not_lt.mpr hhi, h, hcap, State.raiseError_eq, ErrKind.code]

end

end

/-- Settles O20: the search finds the least free path, the tree grows from the free side where that path leaves it, and
the capacity is asked last. -/
theorem huffAddNodeTakesLeastFreePath : Obligations.HuffAddNodeTakesLeastFreePath := by
  intro s ht hlo hhi
  rw [exec_huffAddNode]
  refine ⟨fun hnone => execHuffAddNode_of_none hlo hhi (addNode_eq_none ht s.op1 hnone), fun w hlen hw hleast => ?_⟩
  have hadd : addNode s.huffWork s.op0.toNat s.op1 = some (.along s.op1 s.huffWork 0 w) := by
    rw [← hlen] at hleast ⊢
    exact addNode_eq_some ht s.op1 hw hleast
  obtain ⟨q, b, rest, n, rfl, hq, hn, hfree⟩ := ((freePath_iff _ _).mp hw).split
  have hgrow : GrowsAt s.huffWork q n (b :: rest) := ⟨ht, hq, by rintro _ _ ⟨⟩; exact ⟨hn, hfree⟩⟩
  have hgraft : graft s.op1 s.huffWork 0 (q ++ b :: rest) = graft s.op1 s.huffWork n (b :: rest) := graft_append hq _
  obtain ⟨hself, hleaf⟩ := hgrow.walk_graft_self (s := s.op1) (List.cons_ne_nil b rest)
  have hbranch : (q ++ b :: rest).take (q.length + 1) = q ++ [b] := by
    rw [List.append_cons, List.take_left' (by simp)]
  refine ⟨graft s.op1 s.huffWork n (b :: rest), q.length, by simp, ?_, ?_, ?_, hgrow.wf_graft, hself, hleaf,
    fun p => hgrow.walk_graft_of_not_prefix, fun p _ m => hgrow.walk_graft_of_some,
    fun i hi x => hgrow.getElem?_graft_leaf hi x, fun hcap => ?_, fun hcap => ?_⟩
  · simp [hq]
  · rw [hbranch, walk_concat, hq]
    exact hfree
  · simp [hgrow.length_graft]
  · rw [← hgraft] at hcap ⊢
    exact execHuffAddNode_of_fits hlo hhi hadd hcap
  · rw [← hgraft] at hcap ⊢
    exact execHuffAddNode_of_not_fits hlo hhi hadd hcap

end Sys2Proof.Machine

/-! # The codebook (43_codebook.md)

The decoder on the fields that the grammar writes, its errors, and what every record it accepts meets. -/

namespace Sys2Proof.Machine

/-! ## Decoders on fields that a payload holds -/

/-- A decoder's answer with the cursor at `c`. -/
def answerAt {α : Type} (x : Except Raise α) (c : Cursor) : EStateM.Result Raise Cursor α :=
  match x with
  | .ok a => .ok a c
  | .error e => .error e c

/-- Wherever the payload holds the fields, the decoder consumes exactly these and answers `x`. -/
def Payload.Gives {α : Type} (p : Payload) (f : Parser α) (fs : Fields) (x : Except Raise α) : Prop :=
  ∀ q ctx, p.holds q fs = true → f ⟨q, ctx⟩ = answerAt x ⟨q + fs.bits, ctx⟩

namespace Payload.Gives
variable {α β : Type} {p : Payload} {f : Parser α} {g : α → Parser β} {fs gs : Fields}

theorem pure (a : α) : p.Gives (pure a) [] (.ok a) := fun _ _ _ => rfl

theorem raise {kind : ErrKind} {info aux : Nat} :
    p.Gives (Machine.raise kind info aux : Parser α) [] (.error ⟨kind, info, aux⟩) :=
  fun _ _ _ => rfl

theorem read (n v : Nat) : p.Gives (read p n) [(n, v)] (.ok v) := fun _ _ h => read_of_holds h

theorem flag (b : Bool) : p.Gives (flag p) [(1, b.toNat)] (.ok b) := fun _ _ h => flag_of_holds h

theorem bind {a : α} {x : Except Raise β} (hf : p.Gives f fs (.ok a)) (hg : p.Gives (g a) gs x) :
    p.Gives (f >>= g) (fs ++ gs) x := by
  intro q ctx h
  rw [Payload.holds_append, Bool.and_eq_true] at h
  obtain ⟨hfs, hgs⟩ := h
  rw [Parser.bind_of_ok (hf q ctx hfs), hg _ _ hgs, Fields.bits_append, Nat.add_assoc]

theorem bind_error {e : Raise} (hf : p.Gives f fs (.error e)) : p.Gives (f >>= g) fs (.error e) :=
  fun q ctx h => Parser.bind_of_error (hf q ctx h)

/-- A decoder that reads nothing before another. -/
theorem then_of_nil {a : α} {x : Except Raise β} (hf : p.Gives f [] (.ok a)) (hg : p.Gives (g a) fs x) :
    p.Gives (f >>= g) fs x := hf.bind hg

theorem read_then {g : Nat → Parser β} {x : Except Raise β} {n v : Nat} (hg : p.Gives (g v) fs x) :
    p.Gives (Machine.read p n >>= g) ((n, v) :: fs) x := (Gives.read n v).bind hg

theorem flag_then {g : Bool → Parser β} {x : Except Raise β} {b : Bool} (hg : p.Gives (g b) fs x) :
    p.Gives (Machine.flag p >>= g) ((1, b.toNat) :: fs) x := (Gives.flag b).bind hg

/-- A flag whose value is not written from a Boolean. -/
theorem flag_of_nat (v : Nat) : p.Gives (Machine.flag p) [(1, v)] (.ok (v == 1)) := .read_then (.pure _)

/-- A value computed from an answer. -/
theorem bind_pure {x : Except Raise α} (hf : p.Gives f fs x) (k : α → β) :
    p.Gives (f >>= fun a => Pure.pure (k a)) fs (x.map k) := by
  cases x with
  | ok a =>
    rw [← List.append_nil fs]
    exact hf.bind (Gives.pure (k a))
  | error e => exact hf.bind_error

theorem map {x : Except Raise α} (hf : p.Gives f fs x) (k : α → β) : p.Gives (k <$> f) fs (x.map k) := by
  intro q ctx h
  rw [Parser.map_apply, hf q ctx h]
  cases x <;> rfl

/-- A list of values, each with its own fields. -/
theorem times {f : Nat → Parser α} {fields : α → Fields} {as : List α}
    (h : ∀ i, ∀ a ∈ as, p.Gives (f i) (fields a) (.ok a)) (i : Nat) :
    p.Gives (times f as.length i) (as.flatMap fields) (.ok as) := by
  induction as generalizing i with
  | nil => exact Gives.pure []
  | cons a as ih =>
    have hrest := ih (fun i b hb => h i b (List.mem_cons_of_mem a hb)) (i + 1)
    exact (h i a List.mem_cons_self).bind (hrest.bind_pure (a :: ·))

end Payload.Gives

/-- A decode command on the fields of its record. -/
theorem State.runDecode_of_gives {α : Type} {s : State} {decoder : Parser α} {wrap : α → Record} {fs : Fields}
    {x : Except Raise α} {mapped : Bool} (hcheck : s.decodeCheck mapped = none) (ctx : ErrCtx)
    (h : s.payload.Gives decoder fs x) (hold : s.payload.holds s.bitPos.toNat fs = true) :
    s.runDecode mapped s.bitPos.toNat ctx (wrap <$> decoder) =
      s.endDecode s.bitPos.toNat (answerAt (x.map wrap) ⟨s.bitPos.toNat + fs.bits, ctx⟩) := by
  rw [State.runDecode_of_check hcheck, h.map wrap _ _ hold]

/-- A field after which the engine goes on. -/
theorem State.applyField_of_gives {s : State} {f : Parser Progress} {fs : Fields} {v : ParseVars}
    (h : s.payload.Gives f fs (.ok (.more v))) (hold : s.payload.holds s.bitPos.toNat fs = true) :
    s.applyField f = { s with bitPos := Word.low (s.bitPos.toNat + fs.bits), parse := v } := by
  rw [State.applyField, h _ _ hold]
  rfl

theorem gives_consume {p : Payload} (n v : Nat) : p.Gives (consume p n) [(n, v)] (.ok ()) :=
  .read_then (.pure ())

/-! ## Tags that select nothing -/

theorem State.passTag_of_holds {s : State} {f : Field} {x : Nat} (v : ParseVars)
    (h : s.payload.holds s.bitPos.toNat [(f.width, x)] = true) :
    s.passTag f v = { s with bitPos := Word.low (s.bitPos.toNat + f.width), parse := v } :=
  State.applyField_of_gives ((gives_consume f.width x).bind (.pure _)) h

/-- Settles O39: each tag consumes its field and names the next point. -/
theorem passTagsConsumeTheirField : Obligations.PassTagsConsumeTheirField := by
  intro s i n v point hmem hold
  simp only [List.mem_cons, Prod.mk.injEq, List.not_mem_nil, or_false] at hmem
  rcases hmem with h | h | h | h | h <;> obtain ⟨rfl, rfl, rfl, rfl⟩ := h
  · exact congrArg _ (State.passTag_of_holds (f := .codebookSync) _ hold)
  · exact congrArg _ (State.passTag_of_holds (f := .mappingType) _ hold)
  · exact congrArg _ (State.passTag_of_holds (f := .mappingReserved) _ hold)
  · exact congrArg _ (State.passTag_of_holds (f := .modeWindow) _ hold)
  · exact congrArg _ (State.passTag_of_holds (f := .modeTransform) _ hold)

/-! ## The fields before the lookup -/

section
variable {p : Payload}

theorem gives_codebookSync : p.Gives (codebookSync p) [(24, 0x564342)] (.ok ()) := .read_then (.pure ())

theorem gives_codebookSync_error {v : Nat} (hv : v ≠ 0x564342) :
    p.Gives (codebookSync p) [(24, v)] (.error ⟨.syncMismatch, v, 0⟩) :=
  .read_then (by rw [if_pos hv]; exact .raise)

theorem gives_codebookSizes {params : Params} {entries : Nat} (hcap : overCap entries params.entryCap = false)
    (dimensions : Nat) (ordered : Bool) :
    p.Gives (codebookSizes params p) [(16, dimensions), (24, entries), (1, ordered.toNat)]
      (.ok (dimensions, entries, ordered)) :=
  .read_then <| .read_then <| by
    rw [if_neg (by simp [hcap])]
    exact .flag_then (.pure _)

theorem gives_codebookSizes_error {params : Params} {entries : Nat} (hcap : overCap entries params.entryCap = true)
    (dimensions : Nat) :
    p.Gives (codebookSizes params p) [(16, dimensions), (24, entries)] (.error ⟨.capacityExceeded, entries, 1⟩) :=
  .read_then <| .read_then <| by
    rw [if_pos hcap]
    exact .bind_error .raise

/-! ### An unordered table -/

theorem gives_lengthEntry {sparse : Bool} {l : Option Nat} (hl : ∀ n ∈ l, 1 ≤ n)
    (hdense : sparse = false → l ≠ none) :
    p.Gives (lengthEntry p sparse) (entryFields sparse l) (.ok l) := by
  cases l with
  | none =>
    obtain rfl : sparse = true := by simpa using hdense
    exact .flag_then (b := false) (.pure none)
  | some n =>
    have hn := hl n rfl
    have hread : p.Gives (do let raw ← read p 5; return some (raw + 1)) [(5, n - 1)] (.ok (some n)) :=
      .read_then (by rw [Nat.sub_add_cancel hn]; exact .pure _)
    cases sparse with
    | false => exact hread
    | true => exact .flag_then (b := true) hread

theorem gives_unorderedTable {sparse : Bool} {lengths : List (Option Nat)} (hl : ∀ l ∈ lengths, ∀ n ∈ l, 1 ≤ n)
    (hdense : sparse = false → ∀ l ∈ lengths, l ≠ none) (dimensions : Nat) :
    p.Gives (unorderedTable p dimensions lengths.length)
      ((1, sparse.toNat) :: lengths.flatMap (entryFields sparse))
      (.ok ⟨dimensions, lengths.length, false, some sparse, lengths⟩) :=
  .flag_then <| (Payload.Gives.times (fun _ l h => gives_lengthEntry (hl l h) (hdense · l h)) 0).bind_pure _

/-! ### An ordered table -/

section
variable {entries e l n : Nat}

theorem gives_orderedField (hl : l ≤ 32) (hn : e + n ≤ entries) :
    p.Gives (orderedField p entries e l) [(ilog (entries - e), n)] (.ok n) := by
  unfold orderedField
  rw [if_neg (Nat.not_lt.mpr hl)]
  exact .read_then (by rw [if_neg (Nat.not_lt.mpr hn)]; exact .pure n)

theorem gives_orderedField_countOverflow (hl : l ≤ 32) (hn : entries < e + n) :
    p.Gives (orderedField p entries e l) [(ilog (entries - e), n)] (.error ⟨.countOverflow, e + n, entries⟩) := by
  unfold orderedField
  rw [if_neg (Nat.not_lt.mpr hl)]
  exact .read_then (by rw [if_pos hn]; exact .bind_error .raise)

theorem gives_orderedField_lengthOverflow (hl : 32 < l) :
    p.Gives (orderedField p entries e l) [] (.error ⟨.codewordLengthOverflow, l, e⟩) := by
  unfold orderedField
  rw [if_pos hl]
  exact .bind_error .raise

/-- The loop at length `l` is `orderedRuns` with `33 - l` lengths of room. -/
theorem orderedRuns_of_lt (he : e < entries) (hl : l ≤ 32) :
    orderedRuns p entries (33 - l) e = (do
      let number ← orderedField p entries e l
      let rest ← orderedRuns p entries (33 - (l + 1)) (e + number)
      return List.replicate number (some l) ++ rest) := by
  rw [show 33 - l = 32 - l + 1 by omega, show 33 - (l + 1) = 32 - l by omega, orderedRuns, if_pos he,
    Nat.sub_sub_self hl]

theorem orderedRuns_of_full (room : Nat) : orderedRuns p entries room entries = pure [] := by
  cases room <;> simp [orderedRuns]

/-- One run that fits, before what the loop does after it. -/
theorem gives_orderedRuns_cons {fs : Fields} {x : Except Raise (List (Option Nat))} (he : e < entries) (hl : l ≤ 32)
    (hn : e + n ≤ entries) (hrest : p.Gives (orderedRuns p entries (33 - (l + 1)) (e + n)) fs x) :
    p.Gives (orderedRuns p entries (33 - l) e) ((ilog (entries - e), n) :: fs)
      (x.map (List.replicate n (some l) ++ ·)) := by
  rw [orderedRuns_of_lt he hl]
  exact (gives_orderedField hl hn).bind (hrest.bind_pure _)

theorem gives_orderedRuns {runs : List Nat} (h : runsOk entries e l runs = true) :
    p.Gives (orderedRuns p entries (33 - l) e) (runFields entries e runs) (.ok (runLengths l runs)) := by
  induction runs generalizing e l with
  | nil =>
    obtain rfl : e = entries := by simpa [runsOk] using h
    rw [orderedRuns_of_full]
    exact .pure []
  | cons n runs ih =>
    simp only [runsOk, Bool.and_eq_true, decide_eq_true_eq] at h
    obtain ⟨⟨⟨he, hl⟩, hn⟩, hrest⟩ := h
    exact gives_orderedRuns_cons he hl hn (ih hrest)

/-- An error of the loop after runs that leave entries open. -/
theorem gives_orderedRuns_error {runs : List Nat} {fs : Fields} {err : Raise} (hsum : e + runs.sum < entries)
    (hlen : l + runs.length ≤ 33)
    (h : p.Gives (orderedRuns p entries (33 - (l + runs.length)) (e + runs.sum)) fs (.error err)) :
    p.Gives (orderedRuns p entries (33 - l) e) (runFields entries e runs ++ fs) (.error err) := by
  induction runs generalizing e l with
  | nil => exact h
  | cons n runs ih =>
    simp only [List.sum_cons, List.length_cons] at hsum hlen h
    refine gives_orderedRuns_cons (by omega) (by omega) (by omega) (ih (by omega) (by omega) ?_)
    rwa [Nat.add_right_comm l, Nat.add_assoc l, Nat.add_assoc e]

theorem runFields_append (runs more : List Nat) :
    runFields entries e (runs ++ more) = runFields entries e runs ++ runFields entries (e + runs.sum) more := by
  induction runs generalizing e with
  | nil => rfl
  | cons n runs ih => simp [runFields, ih, Nat.add_assoc]

theorem gives_orderedRuns_countOverflow {runs : List Nat} (hsum : runs.sum < entries) (hlen : l + runs.length ≤ 32)
    (hn : entries < runs.sum + n) :
    p.Gives (orderedRuns p entries (33 - l) 0) (runFields entries 0 (runs ++ [n]))
      (.error ⟨.countOverflow, runs.sum + n, entries⟩) := by
  rw [runFields_append]
  refine gives_orderedRuns_error (by omega) (by omega) ?_
  rw [Nat.zero_add, orderedRuns_of_lt hsum hlen]
  exact (gives_orderedField_countOverflow hlen hn).bind_error

theorem gives_orderedRuns_lengthOverflow {runs : List Nat} (hsum : runs.sum < entries)
    (hlen : l + runs.length = 33) :
    p.Gives (orderedRuns p entries (33 - l) 0) (runFields entries 0 runs)
      (.error ⟨.codewordLengthOverflow, 33, runs.sum⟩) := by
  rw [← List.append_nil (runFields entries 0 runs)]
  refine gives_orderedRuns_error (by omega) (by omega) ?_
  rw [hlen, Nat.zero_add, Nat.sub_self, orderedRuns, if_pos hsum]
  exact (gives_orderedField_lengthOverflow (by decide)).bind_error

end

/-! ### The head -/

theorem gives_codebookTable_ordered {params : Params} {entries first : Nat} {fs : Fields}
    {x : Except Raise (List (Option Nat))} (hcap : overCap entries params.entryCap = false) (hfirst : 1 ≤ first)
    (dimensions : Nat) (h : p.Gives (orderedRuns p entries (33 - first) 0) fs x) :
    p.Gives (codebookTable params p) ([(16, dimensions), (24, entries), (1, 1), (5, first - 1)] ++ fs)
      (x.map fun lengths => ⟨dimensions, entries, true, none, lengths⟩) := by
  refine (gives_codebookSizes hcap dimensions true).bind (gs := (5, first - 1) :: fs) (.read_then ?_)
  rw [Nat.sub_add_cancel hfirst]
  exact h.bind_pure _

/-- The codebook under construction after its length table. -/
def codebookHead (c : Codebook) : CodebookHead := ⟨c.dimensions, c.entries, c.ordered, c.sparse, c.codewordLengths⟩

theorem gives_codebookTable {params : Params} {c : Codebook} {table : Fields} (hwf : c.wf)
    (hcap : overCap c.entries params.entryCap = false) (htable : TableFields c table) :
    p.Gives (codebookTable params p)
      ([(16, c.dimensions), (24, c.entries), (1, c.ordered.toNat)] ++ table) (.ok (codebookHead c)) := by
  obtain ⟨-, -, hsparse, hentries, hlengths, -⟩ := hwf
  unfold TableFields at htable
  unfold codebookHead
  cases hs : c.sparse with
  | none =>
    rw [hs] at htable
    obtain ⟨first, runs, hfirst, hruns, hl, rfl⟩ := htable
    rw [hsparse.mp hs, hl]
    exact gives_codebookTable_ordered hcap hfirst c.dimensions (gives_orderedRuns hruns)
  | some sparse =>
    rw [hs] at htable
    obtain ⟨rfl, hdense⟩ := htable
    have hordered : c.ordered = false := by simpa [hs] using hsparse
    have hbody := gives_unorderedTable (p := p) (fun l h n hn => ((hlengths l h).2 n hn).1) hdense c.dimensions
    rw [hentries] at hbody
    rw [hordered]
    exact (gives_codebookSizes hcap c.dimensions false).bind hbody

/-! ## The lookup -/

theorem gives_floatField {x : Nat} {v : Word} (h : float32Unpack (Word.low x) = some v) :
    p.Gives (floatField p) [(32, x)] (.ok v) :=
  .read_then (by simp only [h]; exact .pure v)

theorem gives_floatField_error {x : Nat} (h : float32Unpack (Word.low x) = none) :
    p.Gives (floatField p) [(32, x)] (.error ⟨.floatNonFinite, x, 0⟩) :=
  .read_then (by simp only [h]; exact .raise)

/-- The root of R54 is the one `lookup1_values` finds. -/
theorem lookup1Values_of_root {entries dimensions root : Nat} (hd : dimensions ≠ 0) (hentries : entries < 2 ^ 32)
    (hle : root ^ dimensions ≤ entries) (hlt : entries < (root + 1) ^ dimensions) :
    lookup1Values entries dimensions = some root := by
  obtain ⟨r, -, hr, hfits, hmax⟩ := lookup1Values_eq_some hd hentries
  have hrle : r ≤ root := Nat.le_of_not_lt fun hover =>
    Nat.not_le.mpr hlt (Nat.le_trans (Nat.pow_le_pow_left hover dimensions) hfits)
  rw [hr, Nat.le_antisymm hrle (hmax root hle)]

theorem gives_lookupValues {v : VectorLookupTable} {lookupType entries dimensions : Nat}
    (hcount : v.countOk lookupType entries dimensions) (hentries : entries < 2 ^ 24) :
    p.Gives (lookupValues lookupType entries dimensions) [] (.ok v.lookupValues) := by
  unfold lookupValues
  unfold VectorLookupTable.countOk at hcount
  split
  next htype =>
    rw [if_pos htype] at hcount
    split at hcount
    next hd =>
      obtain ⟨rfl, hv⟩ := hcount
      rw [hd, hv]
      exact .pure 0
    next hd =>
      obtain ⟨hle, hlt⟩ := hcount
      rw [lookup1Values_of_root hd (by omega) hle hlt]
      exact .pure _
  next htype =>
    rw [if_neg htype] at hcount
    rw [hcount]
    exact .pure _

theorem gives_lookupValues_degenerate {entries dimensions : Nat} (hd : dimensions = 0) (he : entries ≠ 0) :
    p.Gives (lookupValues 1 entries dimensions) [] (.error ⟨.degenerateLookup, entries, dimensions⟩) := by
  simp only [lookupValues, lookup1Values, hd, he, if_true, if_false]
  exact .raise

section
variable {params : Params} {lookupType entries dimensions : Nat}

theorem gives_vectorTable {v : VectorLookupTable} {fs : Fields} (hv : v.wf)
    (hcount : v.countOk lookupType entries dimensions) (hentries : entries < 2 ^ 24)
    (hcap : overCap v.lookupValues params.multCap = false) (hfs : VectorFields v fs) :
    p.Gives (vectorTable params p lookupType entries dimensions) fs (.ok v) := by
  obtain ⟨minimum, delta, hmin, hdelta, rfl⟩ := hfs
  obtain ⟨⟨hbits, -⟩, hlen, -⟩ := hv
  have hmultiplicands := Payload.Gives.times (p := p) (as := v.multiplicands) (fun _ m _ => .read v.valueBits m) 0
  rw [hlen, ← List.map_eq_flatMap] at hmultiplicands
  refine (gives_floatField (by simpa using hmin)).bind <| (gives_floatField (by simpa using hdelta)).bind <|
    .read_then <| .flag_then <| .then_of_nil (gives_lookupValues hcount hentries) ?_
  rw [if_neg (by simp [hcap]), Nat.sub_add_cancel hbits]
  exact hmultiplicands.bind_pure _

/-! ### The errors of a table -/

theorem gives_vectorTable_minimum {x : Nat} (hx : float32Unpack (Word.low x) = none) :
    p.Gives (vectorTable params p lookupType entries dimensions) [(32, x)] (.error ⟨.floatNonFinite, x, 0⟩) :=
  (gives_floatField_error hx).bind_error

section
variable {x y : Nat} {minimum : Word} (hx : float32Unpack (Word.low x) = some minimum)
include hx

theorem gives_vectorTable_delta (hy : float32Unpack (Word.low y) = none) :
    p.Gives (vectorTable params p lookupType entries dimensions) [(32, x), (32, y)]
      (.error ⟨.floatNonFinite, y, 0⟩) :=
  (gives_floatField hx).bind (gives_floatField_error hy).bind_error

variable {delta : Word} (hy : float32Unpack (Word.low y) = some delta)
include hy

theorem gives_vectorTable_count {err : Raise}
    (hcount : p.Gives (lookupValues lookupType entries dimensions) [] (.error err)) (bits sequence : Nat) :
    p.Gives (vectorTable params p lookupType entries dimensions) [(32, x), (32, y), (4, bits), (1, sequence)]
      (.error err) :=
  (gives_floatField hx).bind <| (gives_floatField hy).bind <| .read_then <| (Payload.Gives.flag_of_nat sequence).bind
    hcount.bind_error

theorem gives_vectorTable_overCap {count : Nat} (hcap : overCap count params.multCap = true)
    (hcount : p.Gives (lookupValues lookupType entries dimensions) [] (.ok count)) (bits sequence : Nat) :
    p.Gives (vectorTable params p lookupType entries dimensions) [(32, x), (32, y), (4, bits), (1, sequence)]
      (.error ⟨.capacityExceeded, count, 2⟩) := by
  refine (gives_floatField hx).bind <| (gives_floatField hy).bind <| .read_then <|
    (Payload.Gives.flag_of_nat sequence).bind <| .then_of_nil hcount ?_
  rw [if_pos hcap]
  exact .bind_error .raise

end

/-! ### The lookup type -/

theorem gives_codebookLookup_none : p.Gives (codebookLookup params p entries dimensions) [(4, 0)] (.ok (0, none)) :=
  .read_then (.pure _)

theorem gives_codebookLookup_table {fs : Fields} {x : Except Raise VectorLookupTable}
    (htype : lookupType = 1 ∨ lookupType = 2)
    (h : p.Gives (vectorTable params p lookupType entries dimensions) fs x) :
    p.Gives (codebookLookup params p entries dimensions) ((4, lookupType) :: fs)
      (x.map fun v => (lookupType, some v)) :=
  .read_then <| by
    rw [if_neg (by omega), if_pos htype]
    exact h.bind_pure _

theorem gives_codebookLookup_error (htype : 3 ≤ lookupType) :
    p.Gives (codebookLookup params p entries dimensions) [(4, lookupType)]
      (.error ⟨.invalidEnumValue, lookupType, 1⟩) :=
  .read_then <| by
    rw [if_neg (by omega), if_neg (by omega)]
    exact .raise

theorem gives_codebookLookup {c : Codebook} {fs : Fields} (hwf : c.wf) (hfit : CodebookCountsFit params c)
    (hfs : LookupFields c fs) :
    p.Gives (codebookLookup params p c.entries c.dimensions) fs (.ok (c.lookupType, c.vectorLookupTable)) := by
  obtain ⟨-, hentries, -, -, -, htype, hnone, htable, -⟩ := hwf
  obtain ⟨-, hcap⟩ := hfit
  unfold LookupFields at hfs
  cases hv : c.vectorLookupTable with
  | none =>
    rw [hv] at hfs
    rw [hfs, hnone.mp hv]
    exact gives_codebookLookup_none
  | some v =>
    rw [hv] at hfs
    obtain ⟨rest, hrest, rfl⟩ := hfs
    have hpos : c.lookupType ≠ 0 := mt hnone.mpr (by simp [hv])
    obtain ⟨hvwf, hcount⟩ := htable v hv
    exact gives_codebookLookup_table (by omega) (gives_vectorTable hvwf hcount hentries (hcap v hv) hrest)

end

end

/-- The tag of a lookup type, with what reads its table. -/
theorem State.lookupTag_of_gives {s : State} {lookupType : Nat} {table : Parser (Option VectorLookupTable)}
    {fs : Fields} {t : Option VectorLookupTable} (h : s.payload.Gives table fs (.ok t))
    (hold : s.payload.holds s.bitPos.toNat ((4, lookupType) :: fs) = true) :
    s.lookupTag lookupType table = { s with
      bitPos := Word.low (s.bitPos.toNat + 4 + fs.bits)
      parse := { s.parse with lookupType := lookupType, vectorTable := t, point := .codebookTree } } := by
  rw [Nat.add_assoc]
  exact State.applyField_of_gives ((gives_consume 4 lookupType).bind (h.bind_pure _)) hold

/-- Settles O40: the tag is consumed, and the table it selects is read from the grammar's fields. -/
theorem lookupTagsReadTheirTable : Obligations.LookupTagsReadTheirTable := by
  intro s
  refine ⟨fun hold => congrArg _ (State.lookupTag_of_gives (.pure none) hold), ?_⟩
  intro i lookupType v rest hi hv hcount hentries _ hcap hrest hold
  have htable := (gives_vectorTable hv hcount hentries hcap hrest).map (p := s.payload) some
  simp only [List.mem_cons, Prod.mk.injEq, List.not_mem_nil, or_false] at hi
  obtain ⟨rfl, rfl⟩ | ⟨rfl, rfl⟩ := hi <;> exact congrArg _ (State.lookupTag_of_gives htable hold)

/-! ## The whole record -/

theorem exec_decodeCodebook (s : State) : exec .decodeCodebook s = .next (s.runDecode false s.bitPos.toNat
    ⟨.codebook, false, 0⟩ (Record.codebook <$> decodeCodebook s.params s.payload)) := rfl

section
variable {s : State} {fs : Fields} (hlen : s.inLen.toNat ≤ s.params.inCap)
  (hold : s.payload.holds s.bitPos.toNat fs = true)
include hlen hold

theorem exec_decodeCodebook_of_ok {c : Codebook}
    (h : s.payload.Gives (decodeCodebook s.params s.payload) fs (.ok c)) :
    exec .decodeCodebook s =
      .next (({ s with
        bitPos := Word.low (s.bitPos.toNat + fs.bits), record := some (.codebook c) }).afterSuccess
          (Word.low fs.bits) 0) := by
  rw [exec_decodeCodebook, State.runDecode_of_gives (State.decodeCheck_none false hlen nofun) _ h hold]
  simp [answerAt, Except.map]

theorem exec_decodeCodebook_of_error {kind : ErrKind} {info aux : Nat}
    (h : s.payload.Gives (decodeCodebook s.params s.payload) fs (.error ⟨kind, info, aux⟩)) :
    exec .decodeCodebook s =
      .next (({ s with bitPos := Word.low (s.bitPos.toNat + fs.bits) }).afterError
        kind.code (Word.low info) (Word.low aux) 0x0001) := by
  rw [exec_decodeCodebook, State.runDecode_of_gives (State.decodeCheck_none false hlen nofun) _ h hold]
  rfl

end

section
variable {p : Payload} {params : Params} {c : Codebook} {table fs : Fields}

/-- The head of a legal codebook, before what is read after it. -/
theorem gives_decodeCodebook_of_lookup {x : Except Raise Codebook} (hwf : c.wf)
    (hcap : overCap c.entries params.entryCap = false) (htable : TableFields c table)
    (h : p.Gives (codebookLookup params p c.entries c.dimensions >>= fun r =>
      codebookTree params (codebookHead c) r.1 r.2) fs x) :
    p.Gives (decodeCodebook params p) (codebookHeadFields c table ++ fs) x :=
  gives_codebookSync.bind ((gives_codebookTable hwf hcap htable).bind h)

/-- A whole record, by what the tree's build answers. -/
theorem gives_decodeCodebook_of_tree {x : Except Raise HuffTree} (hwf : c.wf) (hfit : CodebookCountsFit params c)
    (hfs : CodebookFields c fs)
    (htree : ∀ k, buildTree params.nodeCap 0 c.codewordLengths HuffTree.empty k = answerAt x k) :
    p.Gives (decodeCodebook params p) fs (x.map fun tree => { c with huffmanTree := tree }) := by
  obtain ⟨table, lookup, htable, hlookup, rfl⟩ := hfs
  obtain ⟨hcap, -⟩ := id hfit
  have hbuild : p.Gives (buildTree params.nodeCap 0 c.codewordLengths HuffTree.empty) [] x := fun _ _ _ => htree _
  have hrest := (gives_codebookLookup (p := p) hwf hfit hlookup).bind
    (g := fun r => codebookTree params (codebookHead c) r.1 r.2) (hbuild.bind_pure _)
  rw [List.append_nil] at hrest
  exact gives_decodeCodebook_of_lookup hwf hcap htable hrest

theorem gives_decodeCodebook_lookup_error {err : Raise} (hwf : c.wf)
    (hcap : overCap c.entries params.entryCap = false) (htable : TableFields c table)
    (h : p.Gives (codebookLookup params p c.entries c.dimensions) fs (.error err)) :
    p.Gives (decodeCodebook params p) (codebookHeadFields c table ++ fs) (.error err) :=
  gives_decodeCodebook_of_lookup hwf hcap htable h.bind_error

theorem gives_decodeCodebook_runs_error {entries first : Nat} {err : Raise}
    (hcap : overCap entries params.entryCap = false) (hfirst : 1 ≤ first) (dimensions : Nat)
    (h : p.Gives (orderedRuns p entries (33 - first) 0) fs (.error err)) :
    p.Gives (decodeCodebook params p)
      ([(24, 0x564342), (16, dimensions), (24, entries), (1, 1), (5, first - 1)] ++ fs) (.error err) :=
  gives_codebookSync.bind (gives_codebookTable_ordered hcap hfirst dimensions h).bind_error

end

/-- Settles O28: the fields are read in the grammar's order, and the build answers the record's own tree. -/
theorem decodeCodebookReadsGrammar : Obligations.DecodeCodebookReadsGrammar := by
  intro s c fs hlen hwf hfit hfs hold
  obtain ⟨hcounts, htree⟩ := hfit
  exact exec_decodeCodebook_of_ok hlen hold
    (gives_decodeCodebook_of_tree (x := .ok c.huffmanTree) hwf hcounts hfs htree)

/-- Settles O29: a field or a run whose check fails ends the decoder, whatever it was read in; the lookup's errors come
after any legal head. -/
theorem decodeCodebookErrors : Obligations.DecodeCodebookErrors := by
  intro s hlen
  refine ⟨fun v hv hold => ?_, fun dimensions entries hcap hold => ?_, ?_, ?_⟩
  · exact exec_decodeCodebook_of_error hlen hold (gives_codebookSync_error hv).bind_error
  · exact exec_decodeCodebook_of_error hlen hold
      (gives_codebookSync.bind (gives_codebookSizes_error hcap dimensions).bind_error.bind_error)
  · intro dimensions entries first runs hcap hfirst hsum
    have fail {fs : Fields} {kind : ErrKind} {info aux : Nat}
        (h : s.payload.Gives (orderedRuns s.payload entries (33 - first) 0) fs (.error ⟨kind, info, aux⟩))
        (hold : s.payload.holds s.bitPos.toNat
          ([(24, 0x564342), (16, dimensions), (24, entries), (1, 1), (5, first - 1)] ++ fs) = true) :=
      exec_decodeCodebook_of_error hlen hold (gives_decodeCodebook_runs_error hcap hfirst dimensions h)
    exact ⟨fun number hlength hover => fail (gives_orderedRuns_countOverflow hsum hlength hover),
      fun hlength => fail (gives_orderedRuns_lengthOverflow hsum hlength)⟩
  · intro c table hwf hcap htable
    obtain ⟨-, hentries, -⟩ := id hwf
    refine ⟨fun v hv hold => ?_, fun lookupType x y bits seq htype => ?_⟩
    · exact exec_decodeCodebook_of_error hlen hold
        (gives_decodeCodebook_lookup_error hwf hcap htable (gives_codebookLookup_error hv))
    have fail {fs : Fields} {kind : ErrKind} {info aux : Nat}
        (h : s.payload.Gives (vectorTable s.params s.payload lookupType c.entries c.dimensions) fs
          (.error ⟨kind, info, aux⟩))
        (hold : s.payload.holds s.bitPos.toNat (codebookHeadFields c table ++ (4, lookupType) :: fs) = true) :=
      exec_decodeCodebook_of_error hlen hold
        (gives_decodeCodebook_lookup_error hwf hcap htable (gives_codebookLookup_table htype h))
    refine ⟨fun hx => fail (gives_vectorTable_minimum hx), fun hx => ?_⟩
    obtain ⟨minimum, hx⟩ := Option.ne_none_iff_exists'.mp hx
    refine ⟨fun hy => fail (gives_vectorTable_delta hx hy), fun hy => ?_⟩
    obtain ⟨delta, hy⟩ := Option.ne_none_iff_exists'.mp hy
    refine ⟨?_, fun v hcount hover => ?_⟩
    · rintro rfl hd he
      have := fail (gives_vectorTable_count hx hy (gives_lookupValues_degenerate hd he) bits seq)
      rwa [hd] at this
    · exact fail (gives_vectorTable_overCap hx hy hover (gives_lookupValues hcount hentries) bits seq)

/-! ## The tree of a codebook (R239, 42_huffman.md R218) -/

theorem walk_append (t : HuffTree) (n : Nat) (p w : List Bool) :
    walk t n (p ++ w) = (walk t n p).bind fun m => walk t m w := by
  induction p generalizing n with
  | nil => rfl
  | cons b p ih => simp only [List.cons_append, walk_cons, ih, Option.bind_assoc]

/-- A path that has left the tree stays off it. -/
theorem walk_eq_none_of_prefix {t : HuffTree} {n : Nat} {p w : List Bool} (h : p <+: w) (hp : walk t n p = none) :
    walk t n w = none := by
  obtain ⟨rest, rfl⟩ := h
  rw [walk_append, hp, Option.bind_none]

/-- A free path grows the tree from the node where it leaves it. -/
theorem exists_growsAt {t : HuffTree} (ht : t.wf) {w : List Bool} (hw : FreePath t w) :
    ∃ q b rest n, w = q ++ b :: rest ∧ GrowsAt t q n (b :: rest) ∧ ∀ s, graft s t 0 w = graft s t n (b :: rest) := by
  obtain ⟨q, b, rest, n, rfl, hq, hn, hfree⟩ := ((freePath_iff _ _).mp hw).split
  exact ⟨q, b, rest, n, rfl, ⟨ht, hq, by rintro _ _ ⟨⟩; exact ⟨hn, hfree⟩⟩, fun _ => graft_append hq _⟩

/-- An insertion that succeeds has grown the tree along a free path of its length. -/
theorem exists_free_of_addNode {t : HuffTree} (ht : t.wf) {length : Nat} {s : Word} {r : Inserted}
    (h : addNode t length s = some r) : ∃ w, w.length = length ∧ FreePath t w ∧ r.tree = graft s t 0 w := by
  have hroot := isInternalAt_root ht
  rw [addNode, ins_eq s hroot] at h
  obtain ⟨w, hw, rfl⟩ := Option.map_eq_some_iff.mp h
  have hleast := isLeastOf_leastFree t (rem := length) hroot
  rw [hw] at hleast
  obtain ⟨⟨hlen, hfree⟩, -⟩ := hleast
  exact ⟨w, hlen, (freePath_iff t w).mpr hfree, rfl⟩

/-- The number of nodes after the insertion, counted from the depth at which the path leaves the tree. -/
theorem length_graft_of_leaves {t : HuffTree} (ht : t.wf) {w : List Bool} (hw : FreePath t w) {depth : Nat}
    (hin : walk t 0 (w.take depth) ≠ none) (hout : walk t 0 (w.take (depth + 1)) = none) (s : Word) :
    (graft s t 0 w).length = t.length + (w.length - depth) := by
  obtain ⟨q, b, rest, n, rfl, hgrow, hgraft⟩ := exists_growsAt ht hw
  have hle : q.length ≤ depth := by
    refine Nat.le_of_not_lt fun hlt => ?_
    have hprefix : (q ++ b :: rest).take (depth + 1) <+: q := by
      rw [List.take_append_of_le_length hlt]
      exact List.take_prefix _ _
    have := walk_eq_none_of_prefix hprefix hout
    rw [hgrow.path] at this
    cases this
  have hge : depth ≤ q.length := by
    refine Nat.le_of_not_lt fun hlt => hin (walk_eq_none_of_prefix (p := q ++ [b]) ?_ ?_)
    · exact List.prefix_take_iff.mpr ⟨⟨rest, by simp⟩, by rw [List.length_append]; exact hlt⟩
    · rw [walk_concat, hgrow.path]
      exact (hgrow.room b rest rfl).2
  rw [hgraft, hgrow.length_graft, Nat.le_antisymm hge hle]
  simp

/-! ### The leaves -/

/-- The path leads to a leaf with the symbol. -/
def LeafAt (t : HuffTree) (path : List Bool) (x : Word) : Prop :=
  ∃ n, walk t 0 path = some n ∧ t[n]? = some (.leaf x)

theorem walk_leaf_cons {t : HuffTree} {n : Nat} {x : Word} (h : t[n]? = some (.leaf x)) (b : Bool) (p : List Bool) :
    walk t n (b :: p) = none := by
  simp [walk_cons, childOf, h, nodeChild]

/-- An insertion adds one leaf and keeps the others where they are. -/
theorem leafAt_graft {s : Word} {t : HuffTree} {q : List Bool} {n : Nat} {w : List Bool} (h : GrowsAt t q n w)
    (hw : w ≠ []) (path : List Bool) (x : Word) :
    LeafAt (graft s t n w) path x ↔ LeafAt t path x ∨ (path = q ++ w ∧ x = s) := by
  obtain ⟨hself, hleaf⟩ := h.walk_graft_self (s := s) hw
  have hkeep {m : Nat} (hm : walk t 0 path = some m) (x : Word) :=
    h.getElem?_graft_leaf (s := s) (walk_lt_length h.wf (root_lt_length h.wf) hm) x
  constructor
  · rintro ⟨m, hm, hx⟩
    by_cases hp : path <+: q ++ w
    · obtain ⟨rest, hrest⟩ := hp
      rw [← hrest, walk_append, hm, Option.bind_some] at hself
      cases rest with
      | nil =>
        obtain rfl : m = _ := Option.some.inj hself
        rw [hx] at hleaf
        cases hleaf
        exact .inr ⟨by rwa [List.append_nil] at hrest, rfl⟩
      | cons b rest =>
        rw [walk_leaf_cons hx] at hself
        cases hself
    · rw [h.walk_graft_of_not_prefix hp] at hm
      exact .inl ⟨m, hm, (hkeep hm x).mp hx⟩
  · rintro (⟨m, hm, hx⟩ | ⟨rfl, rfl⟩)
    · exact ⟨m, h.walk_graft_of_some hm, (hkeep hm x).mpr hx⟩
    · exact ⟨_, hself, hleaf⟩

/-- A tree built from a list of lengths: its leaves are the symbols that have one, each at that depth (R213, R241). -/
structure BuiltFrom (t : HuffTree) (lengths : List (Option Nat)) : Prop where
  wf : t.wf
  leaf : ∀ sym length, lengths[sym]? = some (some length) →
    ∃ path, path.length = length ∧ LeafAt t path (Word.low sym)
  symbol : ∀ path x, LeafAt t path x → ∃ sym, lengths[sym]? = some (some path.length) ∧ x = Word.low sym

theorem getElem?_concat_eq_some {α : Type} {as : List α} {a b : α} {i : Nat} :
    (as ++ [a])[i]? = some b ↔ as[i]? = some b ∨ (i = as.length ∧ a = b) := by
  grind

theorem builtFrom_empty : BuiltFrom HuffTree.empty [] where
  wf := wf_emptyTree
  leaf := by simp
  symbol := by
    rintro (_ | ⟨b, path⟩) x ⟨n, hn, hx⟩
    · cases hn
      cases hx
    · cases b <;> cases hn

namespace BuiltFrom
variable {t : HuffTree} {lengths : List (Option Nat)} (h : BuiltFrom t lengths)
include h

/-- An unused symbol changes nothing. -/
theorem skip : BuiltFrom t (lengths ++ [none]) := by
  refine ⟨h.wf, fun sym length hl => ?_, fun path x hx => ?_⟩
  · exact h.leaf sym length (by simpa [getElem?_concat_eq_some] using hl)
  · obtain ⟨sym, hsym, rfl⟩ := h.symbol path x hx
    exact ⟨sym, getElem?_concat_eq_some.mpr (.inl hsym), rfl⟩

/-- The next symbol takes a leaf at the depth of its length. -/
theorem add {length : Nat} {r : Inserted} (hadd : addNode t length (Word.low lengths.length) = some r) :
    BuiltFrom r.tree (lengths ++ [some length]) := by
  obtain ⟨w, hlen, hw, hr⟩ := exists_free_of_addNode h.wf hadd
  obtain ⟨q, b, rest, n, rfl, hgrow, hgraft⟩ := exists_growsAt h.wf hw
  have hleaves := leafAt_graft (s := Word.low lengths.length) hgrow (List.cons_ne_nil b rest)
  rw [← hgraft, ← hr] at hleaves
  refine ⟨wf_addNode h.wf hadd, fun sym l hl => ?_, fun path x hx => ?_⟩
  · rcases getElem?_concat_eq_some.mp hl with hl | ⟨rfl, heq⟩
    · obtain ⟨path, hpath, hx⟩ := h.leaf sym l hl
      exact ⟨path, hpath, (hleaves _ _).mpr (.inl hx)⟩
    · exact ⟨_, hlen.trans (Option.some.inj heq), (hleaves _ _).mpr (.inr ⟨rfl, rfl⟩)⟩
  · rcases (hleaves path x).mp hx with hx | ⟨rfl, rfl⟩
    · obtain ⟨sym, hsym, rfl⟩ := h.symbol path x hx
      exact ⟨sym, getElem?_concat_eq_some.mpr (.inl hsym), rfl⟩
    · exact ⟨lengths.length, getElem?_concat_eq_some.mpr (.inr ⟨rfl, congrArg some hlen.symm⟩), rfl⟩

end BuiltFrom

/-! ### The build, symbol by symbol -/

section
variable {cap : Option Nat} {sym length : Nat} {rest : List (Option Nat)} {t tree : HuffTree} {k d : Cursor}

theorem buildTree_of_noRoom (h : addNode t length (Word.low sym) = none) :
    buildTree cap sym (some length :: rest) t k = .error ⟨.huffmanNoRoom, sym, length⟩ k := by
  simp [buildTree, h]

theorem buildTree_of_overCap {r : Inserted} (h : addNode t length (Word.low sym) = some r)
    (hcap : overCap r.tree.length cap = true) :
    buildTree cap sym (some length :: rest) t k = .error ⟨.capacityExceeded, r.tree.length, 3⟩ k := by
  simp [buildTree, h, hcap]

/-- A build that succeeds has put its first symbol. -/
theorem buildTree_some_eq_ok (h : buildTree cap sym (some length :: rest) t k = .ok tree d) :
    ∃ r, addNode t length (Word.low sym) = some r ∧
      ∀ more, buildTree cap sym (some length :: more) t = buildTree cap (sym + 1) more r.tree := by
  cases hadd : addNode t length (Word.low sym) with
  | none => simp [buildTree_of_noRoom hadd] at h
  | some r =>
    cases hcap : overCap r.tree.length cap with
    | true => simp [buildTree_of_overCap hadd hcap] at h
    | false => exact ⟨r, rfl, fun more => by simp [buildTree, hadd, hcap]⟩

theorem builtFrom_of_buildTree {done : List (Option Nat)} (ht : BuiltFrom t done)
    (h : buildTree cap done.length rest t k = .ok tree d) : BuiltFrom tree (done ++ rest) ∧ d = k := by
  induction rest generalizing done t with
  | nil =>
    cases h
    simpa using ht
  | cons l rest ih =>
    rw [List.append_cons]
    cases l with
    | none => exact ih ht.skip (by simpa [buildTree] using h)
    | some length =>
      obtain ⟨r, hadd, heq⟩ := buildTree_some_eq_ok h
      exact ih (ht.add hadd) (by simpa [heq] using h)

/-- The build of a list goes on where the build of its first part ends. -/
theorem buildTree_append {before after : List (Option Nat)} (h : buildTree cap sym before t k = .ok tree d) :
    buildTree cap sym (before ++ after) t k = buildTree cap (sym + before.length) after tree k := by
  induction before generalizing sym t with
  | nil =>
    cases h
    rfl
  | cons l before ih =>
    rw [List.length_cons, Nat.add_comm before.length, ← Nat.add_assoc]
    cases l with
    | none => exact ih h
    | some length =>
      obtain ⟨r, -, heq⟩ := buildTree_some_eq_ok h
      rw [heq] at h
      rw [List.cons_append, heq, ih h]

end

/-- Settles O30: the fields are read to the record's end, the build takes the symbols before the failing one, and that
one has no free path or leaves too large a tree. -/
theorem decodeCodebookHuffmanRaisesLast : Obligations.DecodeCodebookHuffmanRaisesLast := by
  intro s c before after length tree fs hlen hwf hfit hfs hold hlengths hbefore
  have htree : tree.wf := (builtFrom_of_buildTree builtFrom_empty (hbefore ⟨0, .none⟩)).1.wf
  have fail {kind : ErrKind} {info aux : Nat}
      (h : ∀ k, buildTree s.params.nodeCap before.length (some length :: after) tree k =
        .error ⟨kind, info, aux⟩ k) :=
    exec_decodeCodebook_of_error hlen hold <|
      gives_decodeCodebook_of_tree (x := .error ⟨kind, info, aux⟩) hwf hfit hfs fun k => by
        rw [hlengths, buildTree_append (hbefore k), Nat.zero_add, h k]
        rfl
  refine ⟨fun hnone => fail fun k => buildTree_of_noRoom (addNode_eq_none htree _ hnone), ?_⟩
  rintro w depth nodes rfl hw hleast - hin hout rfl hcap
  have hadd := addNode_eq_some htree (Word.low before.length) hw hleast
  have hcount := length_graft_of_leaves htree hw hin hout (Word.low before.length)
  rw [← hcount] at hcap ⊢
  exact fail fun k => buildTree_of_overCap hadd hcap

/-! ## What an accepted codebook meets (R241) -/

section
variable {p : Payload} {c d : Cursor}

theorem read_eq_ok {n v : Nat} (h : read p n c = .ok v d) : v < 2 ^ n ∧ d.pos = c.pos + n := by
  obtain ⟨hr, -⟩ | ⟨hr, -⟩ := read_cases p n c
  · cases hr.symm.trans h
    exact ⟨p.field_lt c.pos n, rfl⟩
  · cases hr.symm.trans h

theorem raise_bind_ne_ok {α β : Type} {kind : ErrKind} {info aux : Nat} {f : α → Parser β} {b : β} :
    (raise kind info aux >>= f) c ≠ .ok b d := by
  rw [Parser.bind_of_error (raise_apply kind info aux c)]
  nofun

theorem Parser.map_eq_ok {α β : Type} {k : α → β} {f : Parser α} {b : β} (h : (k <$> f) c = .ok b d) :
    ∃ a, f c = .ok a d ∧ b = k a := by
  rw [Parser.map_apply] at h
  cases hf : f c <;> rw [hf] at h <;> cases h
  exact ⟨_, rfl, rfl⟩

theorem flag_eq_ok {b : Bool} (h : flag p c = .ok b d) : d.pos = c.pos + 1 := by
  rw [flag, Parser.bind_eq_ok] at h
  obtain ⟨v, c', hread, h⟩ := h
  cases h
  exact (read_eq_ok hread).2

theorem times_succ_eq_ok {α : Type} {f : Nat → Parser α} {n i : Nat} {as : List α}
    (h : times f (n + 1) i c = .ok as d) :
    ∃ a c' rest, f i c = .ok a c' ∧ times f n (i + 1) c' = .ok rest d ∧ as = a :: rest := by
  rw [times_succ, Parser.bind_eq_ok] at h
  obtain ⟨a, c', ha, h⟩ := h
  rw [Parser.bind_eq_ok] at h
  obtain ⟨rest, c'', hrest, h⟩ := h
  cases h
  exact ⟨a, c', rest, ha, hrest, rfl⟩

theorem times_forall {α : Type} {P : α → Prop} {f : Nat → Parser α} (hf : ∀ i c a d, f i c = .ok a d → P a)
    {n i : Nat} {as : List α} (h : times f n i c = .ok as d) : ∀ a ∈ as, P a := by
  induction n generalizing i c as with
  | zero =>
    cases h
    exact List.forall_mem_nil P
  | succ n ih =>
    obtain ⟨a, c', rest, ha, hrest, rfl⟩ := times_succ_eq_ok h
    exact List.forall_mem_cons.mpr ⟨hf i c a c' ha, ih hrest⟩

/-- A list of values of one width. -/
theorem times_pos {α : Type} {width : Nat} {f : Nat → Parser α}
    (hf : ∀ i c a d, f i c = .ok a d → d.pos = c.pos + width) {n i : Nat} {as : List α}
    (h : times f n i c = .ok as d) : d.pos = c.pos + width * n := by
  induction n generalizing i c as with
  | zero =>
    cases h
    rfl
  | succ n ih =>
    obtain ⟨a, c', rest, ha, hrest, rfl⟩ := times_succ_eq_ok h
    rw [ih hrest, hf i c a c' ha, Nat.mul_succ]
    omega

/-! ### The length table -/

/-- A length that a table may hold. -/
def LengthOk (l : Option Nat) : Prop := ∀ n ∈ l, 1 ≤ n ∧ n ≤ 32

theorem lengthEntry_eq_ok {sparse : Bool} {l : Option Nat} (h : lengthEntry p sparse c = .ok l d) :
    LengthOk l ∧ (sparse = false → d.pos = c.pos + 5) := by
  have hused {c : Cursor} (h : (do let raw ← read p 5; return some (raw + 1) : Parser (Option Nat)) c = .ok l d) :
      LengthOk l ∧ d.pos = c.pos + 5 := by
    rw [Parser.bind_eq_ok] at h
    obtain ⟨raw, c', hraw, h⟩ := h
    cases h
    obtain ⟨hlt, hpos⟩ := read_eq_ok hraw
    refine ⟨?_, hpos⟩
    rintro n ⟨⟩
    omega
  cases sparse with
  | false => exact ⟨(hused h).1, fun _ => (hused h).2⟩
  | true =>
    refine ⟨?_, nofun⟩
    simp only [lengthEntry, if_true, Parser.bind_eq_ok] at h
    obtain ⟨used, c', -, h⟩ := h
    cases used with
    | true => exact (hused h).1
    | false =>
      cases h
      nofun

theorem orderedField_eq_ok {entries e l n : Nat} (h : orderedField p entries e l c = .ok n d) :
    l ≤ 32 ∧ e + n ≤ entries := by
  unfold orderedField at h
  split at h
  next => exact absurd h raise_bind_ne_ok
  next hl =>
    simp only [Parser.bind_eq_ok] at h
    obtain ⟨m, c', -, h⟩ := h
    split at h
    next => exact absurd h raise_bind_ne_ok
    next hm =>
      cases h
      omega

theorem orderedRuns_eq_ok {entries room e : Nat} {lengths : List (Option Nat)} (hroom : room ≤ 32) (he : e ≤ entries)
    (h : orderedRuns p entries room e c = .ok lengths d) :
    lengths.length = entries - e ∧ ∀ l ∈ lengths, LengthOk l ∧ l ≠ none := by
  induction room generalizing e c lengths with
  | zero =>
    unfold orderedRuns at h
    split at h
    next =>
      rw [Parser.bind_eq_ok] at h
      obtain ⟨n, c', hn, -⟩ := h
      exact absurd (orderedField_eq_ok hn).1 (by decide)
    next =>
      cases h
      simp
      omega
  | succ room ih =>
    unfold orderedRuns at h
    split at h
    next =>
      simp only [Parser.bind_eq_ok] at h
      obtain ⟨n, c', hn, rest, c'', hrest, h⟩ := h
      cases h
      have hle := (orderedField_eq_ok hn).2
      obtain ⟨hlen, hall⟩ := ih (by omega) hle hrest
      refine ⟨by rw [List.length_append, List.length_replicate, hlen]; omega, fun l hl => ?_⟩
      rcases List.mem_append.mp hl with hl | hl
      · rw [List.eq_of_mem_replicate hl]
        exact ⟨by rintro _ ⟨⟩; omega, nofun⟩
      · exact hall l hl
    next =>
      cases h
      simp
      omega

theorem codebookSizes_eq_ok {params : Params} {x : Nat × Nat × Bool} (h : codebookSizes params p c = .ok x d) :
    x.2.1 < 2 ^ 24 ∧ d.pos = c.pos + (16 + 24 + 1) := by
  simp only [codebookSizes, Parser.bind_eq_ok] at h
  obtain ⟨dimensions, c₁, hdim, entries, c₂, hent, h⟩ := h
  split at h
  next => exact absurd h raise_bind_ne_ok
  next =>
    rw [Parser.bind_eq_ok] at h
    obtain ⟨ordered, c₃, hord, h⟩ := h
    cases h
    have hdim := (read_eq_ok hdim).2
    have hent := read_eq_ok hent
    have hord := flag_eq_ok hord
    exact ⟨hent.1, by omega⟩

/-- A codebook under construction whose length table is read from `start` to `stop` (R232 to R236, R241). -/
structure HeadAccepted (h : CodebookHead) (start stop : Nat) : Prop where
  entries_lt : h.entries < 2 ^ 24
  length : h.codewordLengths.length = h.entries
  lengthOk : ∀ l ∈ h.codewordLengths, LengthOk l
  sparse_iff : h.sparse = none ↔ h.ordered = true
  used : h.ordered = true → none ∉ h.codewordLengths
  dense_pos : h.sparse = some false → stop = start + (16 + 24 + 1 + 1 + 5 * h.entries)

/-- What every accepted length table meets. -/
theorem codebookTable_eq_ok {params : Params} {x : CodebookHead} (h : codebookTable params p c = .ok x d) :
    HeadAccepted x c.pos d.pos := by
  rw [codebookTable, Parser.bind_eq_ok] at h
  obtain ⟨⟨dimensions, entries, ordered⟩, c₁, hsizes, h⟩ := h
  obtain ⟨hentries, hpos⟩ := codebookSizes_eq_ok hsizes
  cases ordered with
  | true =>
    simp only [if_true, Parser.bind_eq_ok] at h
    obtain ⟨raw, c₂, -, lengths, c₃, hruns, h⟩ := h
    cases h
    obtain ⟨hlen, hall⟩ := orderedRuns_eq_ok (by omega) (Nat.zero_le _) hruns
    exact ⟨hentries, hlen, fun l hl => (hall l hl).1, by simp, fun _ hl => (hall none hl).2 rfl, nofun⟩
  | false =>
    simp only [Bool.false_eq_true, if_false, unorderedTable, Parser.bind_eq_ok] at h
    obtain ⟨sparse, c₂, hsparse, lengths, c₃, hlengths, h⟩ := h
    cases h
    have hsparse := flag_eq_ok hsparse
    refine ⟨hentries, times_length hlengths, times_forall (fun _ _ _ _ h => (lengthEntry_eq_ok h).1) hlengths, by simp,
      nofun, ?_⟩
    rintro ⟨⟩
    have hend := times_pos (fun _ _ _ _ h => (lengthEntry_eq_ok h).2 rfl) hlengths
    dsimp only
    omega

/-! ### The lookup -/

/-- A codebook's lookup, read from `start` to `stop` (R237, R238, R241). -/
structure LookupAccepted (lookupType : Nat) (table : Option VectorLookupTable) (start stop : Nat) : Prop where
  table_iff : table ≠ none ↔ lookupType = 1 ∨ lookupType = 2
  length : ∀ v, table = some v → v.multiplicands.length = v.lookupValues
  none_pos : lookupType = 0 → stop = start + 4

theorem vectorTable_eq_ok {params : Params} {lookupType entries dimensions : Nat} {v : VectorLookupTable}
    (h : vectorTable params p lookupType entries dimensions c = .ok v d) :
    v.multiplicands.length = v.lookupValues := by
  simp only [vectorTable, Parser.bind_eq_ok] at h
  obtain ⟨_, _, -, _, _, -, _, _, -, _, _, -, count, c₁, -, h⟩ := h
  split at h
  next => exact absurd h raise_bind_ne_ok
  next =>
    rw [Parser.bind_eq_ok] at h
    obtain ⟨multiplicands, c₂, htimes, h⟩ := h
    cases h
    exact times_length htimes

theorem codebookLookup_eq_ok {params : Params} {entries dimensions : Nat} {x : Nat × Option VectorLookupTable}
    (h : codebookLookup params p entries dimensions c = .ok x d) : LookupAccepted x.1 x.2 c.pos d.pos := by
  rw [codebookLookup, Parser.bind_eq_ok] at h
  obtain ⟨lookupType, c₁, htype, h⟩ := h
  split at h
  next =>
    cases h
    exact ⟨by simp, nofun, fun _ => (read_eq_ok htype).2⟩
  next h0 =>
    split at h
    next h12 =>
      rw [Parser.bind_eq_ok] at h
      obtain ⟨v, c₂, hv, h⟩ := h
      cases h
      exact ⟨by simpa using h12, by rintro _ ⟨⟩; exact vectorTable_eq_ok hv, fun h => absurd h h0⟩
    next => cases h

/-! ### The record -/

theorem codebookSync_eq_ok (h : codebookSync p c = .ok () d) : d.pos = c.pos + 24 := by
  rw [codebookSync, Parser.bind_eq_ok] at h
  obtain ⟨v, c', hread, h⟩ := h
  split at h
  next => cases h
  next =>
    cases h
    exact (read_eq_ok hread).2

theorem codebookTree_eq_ok {params : Params} {x : CodebookHead} {lookupType : Nat} {v : Option VectorLookupTable}
    {b : Codebook} (h : codebookTree params x lookupType v c = .ok b d) :
    ∃ tree, b = ⟨x.dimensions, x.entries, x.ordered, x.sparse, x.codewordLengths, lookupType, v, tree⟩ ∧
      BuiltFrom tree x.codewordLengths ∧ d = c := by
  rw [codebookTree, Parser.bind_eq_ok] at h
  obtain ⟨tree, c', htree, h⟩ := h
  cases h
  obtain ⟨hbuilt, rfl⟩ := builtFrom_of_buildTree builtFrom_empty htree
  exact ⟨tree, rfl, hbuilt, rfl⟩

theorem decodeCodebook_eq_ok {params : Params} {b : Codebook} (h : decodeCodebook params p c = .ok b d) :
    ∃ stop, HeadAccepted (codebookHead b) (c.pos + 24) stop ∧
      LookupAccepted b.lookupType b.vectorLookupTable stop d.pos ∧
      BuiltFrom b.huffmanTree b.codewordLengths := by
  simp only [decodeCodebook, Parser.bind_eq_ok] at h
  obtain ⟨⟨⟩, c₁, hsync, x, c₂, htable, lookup, c₃, hlookup, h⟩ := h
  obtain ⟨tree, rfl, hbuilt, rfl⟩ := codebookTree_eq_ok h
  have hhead := codebookTable_eq_ok htable
  rw [codebookSync_eq_ok hsync] at hhead
  exact ⟨c₂.pos, hhead, codebookLookup_eq_ok hlookup, hbuilt⟩

end

/-- With fewer than 2^32 symbols, a leaf's word names its symbol. -/
theorem BuiltFrom.leafAt_iff {t : HuffTree} {lengths : List (Option Nat)} (h : BuiltFrom t lengths)
    (hlt : lengths.length < 2 ^ 32) {sym length : Nat} :
    lengths[sym]? = some (some length) ↔
      sym < lengths.length ∧ ∃ path, path.length = length ∧ LeafAt t path (Word.low sym) := by
  constructor
  · intro hsym
    exact ⟨(List.getElem?_eq_some_iff.mp hsym).1, h.leaf sym length hsym⟩
  · rintro ⟨hs, path, rfl, hleaf⟩
    obtain ⟨sym', hsym', heq⟩ := h.symbol path _ hleaf
    have hs' := (List.getElem?_eq_some_iff.mp hsym').1
    have hnat := congrArg BitVec.toNat heq
    rw [BitVec.toNat_ofNat, BitVec.toNat_ofNat, Nat.mod_eq_of_lt (by omega), Nat.mod_eq_of_lt (by omega)] at hnat
    rwa [hnat]

theorem BuiltFrom.leaf_lt {t : HuffTree} {lengths : List (Option Nat)} (h : BuiltFrom t lengths) {path : List Bool}
    {x : Word} (hx : LeafAt t path x) : x.toNat < lengths.length := by
  obtain ⟨sym, hsym, rfl⟩ := h.symbol path x hx
  exact Nat.lt_of_le_of_lt (by simpa using Nat.mod_le _ _) (List.getElem?_eq_some_iff.mp hsym).1

/-- Settles O32: only a decoder that has succeeded leaves a record, each of its parts has met its checks, and the tree
is built from the lengths. -/
theorem acceptedCodebookProperties : Obligations.AcceptedCodebookProperties := by
  intro s t c hrecord hexec ht
  rw [exec_decodeCodebook] at hexec
  obtain rfl := Host.Outcome.next.inj hexec
  obtain ⟨reason, aux, -, heq⟩ | ⟨r, d, -, hdecode, heq⟩ | ⟨e, d, -, -, heq⟩ := State.runDecode_cases s false
    s.bitPos.toNat ⟨.codebook, false, 0⟩ (Record.codebook <$> decodeCodebook s.params s.payload)
  · simp [heq, hrecord] at ht
  · rw [heq] at ht ⊢
    obtain rfl : r = .codebook c := Option.some.inj ht
    obtain ⟨_, hb, ⟨⟩⟩ := Parser.map_eq_ok hdecode
    obtain ⟨stop, hhead, ⟨htable, hmult, hnone⟩, hbuilt⟩ := decodeCodebook_eq_ok hb
    obtain ⟨hentries, hlen, hlengths, hsparse, hused, hdense⟩ := hhead
    replace hlen : c.codewordLengths.length = c.entries := hlen
    replace hentries : c.codewordLengths.length < 2 ^ 24 := hlen ▸ hentries
    refine ⟨hlen, fun l hl => hlengths _ hl l rfl, hsparse, hused, htable, hmult, fun sym length => ?_,
      fun path n x hn hx => ?_, fun hs h0 => ?_⟩
    · rw [hbuilt.leafAt_iff (by omega), hlen]
      simp only [LeafAt, exists_and_left]
    · exact hlen ▸ hbuilt.leaf_lt ⟨n, hn, hx⟩
    · have hstop := hdense hs
      have hend := hnone h0
      dsimp only [codebookHead] at hstop hend
      exact congrArg Word.low (by omega)
  · simp [heq, hrecord] at ht

end Sys2Proof.Machine

/-! # The floor (44_floor.md)

The decoder of both types on the fields that the grammar writes, its errors, what every record it accepts meets, and the
tags that a whole record follows. -/

namespace Sys2Proof.Machine

/-! ## A record command on fields that its payload holds -/

section
variable {α : Type} {s : State} {decoder : Parser α} {wrap : α → Record} {fs : Fields}
  (hlen : s.inLen.toNat ≤ s.params.inCap) (hold : s.payload.holds s.bitPos.toNat fs = true) (ctx : ErrCtx)
include hlen hold

theorem State.runDecode_of_gives_ok {a : α} (h : s.payload.Gives decoder fs (.ok a)) :
    s.runDecode false s.bitPos.toNat ctx (wrap <$> decoder) =
      ({ s with bitPos := Word.low (s.bitPos.toNat + fs.bits), record := some (wrap a) }).afterSuccess
        (Word.low fs.bits) 0 := by
  rw [State.runDecode_of_gives (State.decodeCheck_none false hlen nofun) ctx h hold]
  simp [answerAt, Except.map]

theorem State.runDecode_of_gives_error {kind : ErrKind} {info aux : Nat}
    (h : s.payload.Gives decoder fs (.error ⟨kind, info, aux⟩)) :
    s.runDecode false s.bitPos.toNat ctx (wrap <$> decoder) =
      ({ s with bitPos := Word.low (s.bitPos.toNat + fs.bits) }).afterError
        kind.code (Word.low info) (Word.low aux) ctx.word := by
  rw [State.runDecode_of_gives (State.decodeCheck_none false hlen nofun) ctx h hold]
  rfl

end

/-! ## The fields of a floor record -/

section
variable {p : Payload}

/-- Values that are each one field of the same width. -/
theorem gives_values {n : Nat} (width : Nat) {vs : List Nat} (hlen : vs.length = n) :
    p.Gives (times (fun _ => read p width) n 0) (vs.map fun v => (width, v)) (.ok vs) := by
  rw [← hlen, List.map_eq_flatMap]
  exact .times (fun _ v _ => .read width v) 0

/-- The fields after the tag (R273). -/
theorem gives_decodeFloor0 {f : Floor0} (hwf : f.wf) : p.Gives (decodeFloor0 p) (floor0Fields f).tail (.ok f) := by
  obtain ⟨order, rate, barkMapSize, amplitudeBits, amplitudeOffset, numberOfBooks, bookList⟩ := f
  obtain ⟨-, -, -, -, -, ⟨hpos, -⟩, hlen, -⟩ := hwf
  obtain ⟨raw, rfl⟩ := Nat.exists_eq_add_of_le' hpos
  exact .read_then <| .read_then <| .read_then <| .read_then <| .read_then <| .read_then <|
    (gives_values 8 hlen).bind_pure _

/-! ### A class -/

/-- The master book, read for a class with subclasses, before what is read after it. -/
theorem gives_masterbooks_then {β : Type} {g : Option Nat → Parser β} {fs : Fields} {x : Except Raise β}
    {subclasses : Nat} {masterbooks : Option Nat} (hnone : masterbooks = none ↔ subclasses = 0)
    (hg : p.Gives (g masterbooks) fs x) :
    p.Gives (if subclasses > 0 then some <$> read p 8 >>= g else pure none >>= g)
      ((masterbooks.toList.map fun b => (8, b)) ++ fs) x := by
  cases masterbooks with
  | none =>
    rw [if_neg (by simp [← hnone])]
    exact .then_of_nil (.pure none) hg
  | some b =>
    rw [if_pos (Nat.pos_of_ne_zero (mt hnone.mpr nofun))]
    exact ((Payload.Gives.read 8 b).map some).bind hg

/-- A subclass book is stored one above its value (R57). -/
theorem map_sub_one_map_toNat {books : List Int} (h : ∀ b ∈ books, -1 ≤ b) :
    (books.map fun b => (b + 1).toNat).map (fun (b : Nat) => (b : Int) - 1) = books := by
  rw [List.map_map, List.map_congr_left (g := id), List.map_id]
  intro b hb
  have := h b hb
  simp only [Function.comp, id]
  omega

theorem gives_decodeFloorClass {c : FloorClass} (hwf : c.wf) :
    p.Gives (decodeFloorClass p) (classFields c) (.ok c) := by
  obtain ⟨dimensions, subclasses, masterbooks, subclassBooks⟩ := c
  obtain ⟨⟨hdim, -⟩, -, hnone, -, hlen, hbooks⟩ := hwf
  obtain ⟨raw, rfl⟩ := Nat.exists_eq_add_of_le' hdim
  have hbytes : (subclassBooks.map fun b => (b + 1).toNat).length = 2 ^ subclasses := List.length_map _ |>.trans hlen
  have hraw := (gives_values (p := p) 8 hbytes).bind_pure fun books =>
    (⟨raw + 1, subclasses, masterbooks, books.map fun (b : Nat) => (b : Int) - 1⟩ : FloorClass)
  rw [Except.map, map_sub_one_map_toNat fun b hb => (hbooks b hb).1, List.map_map] at hraw
  exact .read_then <| .read_then <| gives_masterbooks_then hnone hraw

/-! ### The x values -/

/-- The x values of the partitions (R280), as many as their classes have dimensions. -/
theorem gives_xValues {rangebits : Nat} {classes : List FloorClass} {classList xs : List Nat}
    (hlen : xs.length = (classList.map (classDimensions classes)).sum) :
    p.Gives (xValues p rangebits classes classList) (xs.map fun x => (rangebits, x)) (.ok xs) := by
  induction classList generalizing xs with
  | nil =>
    obtain rfl := List.eq_nil_of_length_eq_zero hlen
    exact .pure []
  | cons c rest ih =>
    rw [List.map_cons, List.sum_cons] at hlen
    obtain ⟨here, after, rfl, hhere⟩ : ∃ here after, xs = here ++ after ∧ here.length = classDimensions classes c :=
      ⟨_, _, (xs.take_append_drop _).symm, List.length_take_of_le (by omega)⟩
    rw [List.length_append, hhere, Nat.add_left_cancel_iff] at hlen
    rw [List.map_append]
    exact (gives_values rangebits hhere).bind ((ih hlen).bind_pure _)

/-! ### A type 1 record -/

end

/-- A type 1 record that its fields determine but for the first two x values, whatever the length of its x_list
(R274 to R280). -/
structure Floor1Written (f : Floor1) : Prop where
  partitions_pos : 1 ≤ f.partitions
  classList_length : f.partitionClassList.length = f.partitions
  maximumClass_eq : f.maximumClass = f.partitionClassList.foldr max 0
  classes_length : f.classes.length = f.maximumClass + 1
  classes_wf : ∀ c ∈ f.classes, c.wf
  multiplier_pos : 1 ≤ f.multiplier
  xList_length : f.xList.length = 2 + (f.partitionClassList.map (classDimensions f.classes)).sum

/-- `maximum_class` bounds the class list (R276); `foldr_max_mem` says that it is one of it. -/
theorem le_foldr_max {l : List Nat} : ∀ c ∈ l, c ≤ l.foldr max 0 := by
  induction l with
  | nil => exact nofun
  | cons a l ih =>
    rw [List.foldr_cons]
    exact List.forall_mem_cons.mpr ⟨Nat.le_max_left .., fun c hc => Nat.le_trans (ih c hc) (Nat.le_max_right ..)⟩

theorem foldr_max_mem {l : List Nat} (hl : l ≠ []) : l.foldr max 0 ∈ l := by
  induction l with
  | nil => exact absurd rfl hl
  | cons a l ih =>
    rw [List.foldr_cons]
    by_cases hnil : l = []
    · rw [hnil, List.foldr_nil, Nat.max_zero]
      exact List.mem_singleton_self a
    · cases Nat.le_total (l.foldr max 0) a with
      | inl h =>
        rw [Nat.max_eq_left h]
        exact List.mem_cons_self
      | inr h =>
        rw [Nat.max_eq_right h]
        exact List.mem_cons_of_mem a (ih hnil)

theorem foldr_max_eq {l : List Nat} {m : Nat} (hle : ∀ c ∈ l, c ≤ m) (hmem : m ∈ l) : l.foldr max 0 = m :=
  Nat.le_antisymm (hle _ (foldr_max_mem (List.ne_nil_of_mem hmem))) (le_foldr_max m hmem)

theorem Floor1Written.of_wf {f : Floor1} (h : f.wf) : Floor1Written f := by
  obtain ⟨⟨hpos, -⟩, hlist, hle, hmem, -, hclasses, hwf, ⟨hmul, -⟩, -, -, hx, -⟩ := h
  exact ⟨hpos, hlist, (foldr_max_eq hle hmem).symm, hclasses, hwf, hmul, hx⟩

section
variable {p : Payload} {f : Floor1}

/-- The fields after the tag, up to the length check of R281. -/
theorem gives_decodeFloor1 (h : Floor1Written f) :
    p.Gives (decodeFloor1 p) (floor1Fields f).tail
      (if f.xList.length > 65 then .error ⟨.countOverflow, f.xList.length, 65⟩
       else .ok { f with xList := 0 :: 2 ^ f.rangebits :: f.xList.drop 2 }) := by
  obtain ⟨partitions, classList, maximumClass, classes, multiplier, rangebits, xList⟩ := f
  obtain ⟨hpos, hlist, hmax, hclasses, hwf, hmul, hx⟩ := h
  dsimp only at *
  obtain ⟨raw, rfl⟩ := Nat.exists_eq_add_of_le' hmul
  have htable := Payload.Gives.times (p := p) (fun _ c hc => gives_decodeFloorClass (hwf c hc)) 0
  have hdrop : (xList.drop 2).length = (classList.map (classDimensions classes)).sum := by
    rw [List.length_drop, hx, Nat.add_sub_cancel_left]
  have hxs := gives_xValues (p := p) (rangebits := rangebits) hdrop
  rw [hclasses, hmax] at htable
  have hlength : (0 :: 2 ^ rangebits :: xList.drop 2).length = xList.length := by simp; omega
  simp only [floor1Fields, List.append_assoc, List.cons_append, List.nil_append, List.tail_cons, Nat.add_sub_cancel]
  refine .read_then <| (gives_values 4 hlist).bind ?_
  rw [if_neg (by omega)]
  refine htable.bind <| .read_then <| .read_then ?_
  rw [← List.append_nil (List.map _ (List.drop 2 xList))]
  refine hxs.bind ?_
  dsimp only
  rw [hlength, hmax]
  split
  · exact .bind_error .raise
  · exact .pure _

theorem gives_decodeFloor1_empty : p.Gives (decodeFloor1 p) [(5, 0)] (.error ⟨.emptyPartitionList, 0, 0⟩) :=
  .read_then <| .then_of_nil (.pure []) <| .bind_error .raise

/-! ### The record, by its tag (R271) -/

theorem gives_decodeFloor_zero {x : Except Raise Floor0} {fs : Fields} (h : p.Gives (decodeFloor0 p) fs x) :
    p.Gives (decodeFloor p) ((16, 0) :: fs) (x.map .zero) := .read_then (h.bind_pure _)

theorem gives_decodeFloor_one {x : Except Raise Floor1} {fs : Fields} (h : p.Gives (decodeFloor1 p) fs x) :
    p.Gives (decodeFloor p) ((16, 1) :: fs) (x.map .one) := .read_then (h.bind_pure _)

theorem gives_decodeFloor_error {v : Nat} (hv : 2 ≤ v) :
    p.Gives (decodeFloor p) [(16, v)] (.error ⟨.invalidEnumValue, v, 2⟩) :=
  .read_then <| by
    rw [if_neg (by omega), if_neg (by omega)]
    exact .raise

theorem gives_decodeFloor1_of_wf (hwf : f.wf) : p.Gives (decodeFloor1 p) (floor1Fields f).tail (.ok f) := by
  have h := gives_decodeFloor1 (p := p) (.of_wf hwf)
  obtain ⟨-, -, -, -, -, -, -, -, -, hle, -, htake, -⟩ := hwf
  have hx : 0 :: 2 ^ f.rangebits :: f.xList.drop 2 = f.xList := by
    have hsplit := f.xList.take_append_drop 2
    rwa [htake] at hsplit
  rwa [if_neg (by omega), hx] at h

theorem gives_decodeFloor {f : Floor} (hwf : f.wf) : p.Gives (decodeFloor p) (floorFields f) (.ok f) := by
  cases f with
  | zero f => exact gives_decodeFloor_zero (gives_decodeFloor0 hwf)
  | one f => exact gives_decodeFloor_one (gives_decodeFloor1_of_wf hwf)

end

theorem exec_decodeFloor (s : State) : exec .decodeFloor s = .next (s.runDecode false s.bitPos.toNat
    ⟨.floor, false, 0⟩ (Record.floor <$> decodeFloor s.payload)) := rfl

/-- Settles O23: the fields after either tag are read in the grammar's order. -/
theorem decodeFloorReadsGrammar : Obligations.DecodeFloorReadsGrammar := by
  intro s f hlen hwf hold
  rw [exec_decodeFloor, State.runDecode_of_gives_ok hlen hold _ (gives_decodeFloor hwf)]

/-- Settles O24: a tag, a partition count or an x_list whose check fails ends the decoder once its fields are read. -/
theorem decodeFloorErrors : Obligations.DecodeFloorErrors := by
  intro s hlen
  have fail {fs : Fields} {kind : ErrKind} {info aux : Nat}
      (h : s.payload.Gives (decodeFloor s.payload) fs (.error ⟨kind, info, aux⟩))
      (hold : s.payload.holds s.bitPos.toNat fs = true) :
      exec .decodeFloor s = .next (({ s with bitPos := Word.low (s.bitPos.toNat + fs.bits) }).afterError
        kind.code (Word.low info) (Word.low aux) 0x0003) :=
    congrArg _ (State.runDecode_of_gives_error hlen hold _ h)
  refine ⟨fun v hv hold => ?_, fun hold => ?_, fun f hpos hlist hmax hclasses hwf hmul hx hover hold => ?_⟩
  · rw [← low_toNat_add_toNat s.bitPos 16]
    exact fail (gives_decodeFloor_error hv) hold
  · rw [← low_toNat_add_toNat s.bitPos 21]
    exact fail (gives_decodeFloor_one gives_decodeFloor1_empty) hold
  · have h := gives_decodeFloor1 (p := s.payload) ⟨hpos, hlist, hmax, hclasses, hwf, hmul, hx⟩
    rw [if_pos hover] at h
    exact fail (gives_decodeFloor_one h) hold

/-! ## What an accepted floor meets (R275) -/

section
variable {p : Payload} {c d : Cursor}

theorem times_read_lt {width n i : Nat} {vs : List Nat} (h : times (fun _ => read p width) n i c = .ok vs d) :
    ∀ v ∈ vs, v < 2 ^ width :=
  times_forall (fun _ _ _ _ h => (read_eq_ok h).1) h

theorem xValues_eq_ok {rangebits : Nat} {classes : List FloorClass} {classList xs : List Nat}
    (h : xValues p rangebits classes classList c = .ok xs d) :
    xs.length = (classList.map (classDimensions classes)).sum ∧ ∀ x ∈ xs, x < 2 ^ rangebits := by
  induction classList generalizing c xs with
  | nil =>
    cases h
    exact ⟨rfl, List.forall_mem_nil _⟩
  | cons k rest ih =>
    simp only [xValues, Parser.bind_eq_ok] at h
    obtain ⟨here, c₁, hhere, after, c₂, hafter, h⟩ := h
    cases h
    obtain ⟨hlen, hlt⟩ := ih hafter
    exact ⟨by simp [times_length hhere, hlen], List.forall_mem_append.mpr ⟨times_read_lt hhere, hlt⟩⟩

theorem decodeFloor0_eq_ok {f : Floor0} (h : decodeFloor0 p c = .ok f d) : f.wf := by
  simp only [decodeFloor0, Parser.bind_eq_ok] at h
  obtain ⟨order, c₁, horder, rate, c₂, hrate, bark, c₃, hbark, bits, c₄, hbits, offset, c₅, hoffset, raw, c₆, hraw,
    books, c₇, hbooks, h⟩ := h
  cases h
  have hbits := (read_eq_ok hbits).1
  have hraw := (read_eq_ok hraw).1
  exact ⟨(read_eq_ok horder).1, (read_eq_ok hrate).1, (read_eq_ok hbark).1, Nat.le_of_lt_succ hbits,
    (read_eq_ok hoffset).1, ⟨Nat.le_add_left .., hraw⟩, times_length hbooks, times_read_lt hbooks⟩

theorem masterbooks_then_eq_ok {β : Type} {g : Option Nat → Parser β} {b : β} {subclasses : Nat}
    (h : (if subclasses > 0 then some <$> read p 8 >>= g else pure none >>= g) c = .ok b d) :
    ∃ m c', g m c' = .ok b d ∧ (m = none ↔ subclasses = 0) ∧ ∀ n ∈ m, n < 2 ^ 8 := by
  split at h
  next hsub =>
    obtain ⟨_, c', hread, h⟩ := Parser.bind_eq_ok.mp h
    obtain ⟨n, hn, rfl⟩ := Parser.map_eq_ok hread
    refine ⟨some n, c', h, by simp; omega, ?_⟩
    rintro _ ⟨⟩
    exact (read_eq_ok hn).1
  next hsub => exact ⟨none, c, h, by simp; omega, nofun⟩

theorem decodeFloorClass_eq_ok {f : FloorClass} (h : decodeFloorClass p c = .ok f d) : f.wf := by
  simp only [decodeFloorClass, Parser.bind_eq_ok] at h
  obtain ⟨raw, c₁, hraw, subclasses, c₂, hsub, h⟩ := h
  obtain ⟨masterbooks, c₃, h, hnone, hmaster⟩ := masterbooks_then_eq_ok h
  obtain ⟨books, c₄, hbooks, h⟩ := Parser.bind_eq_ok.mp h
  cases h
  have hraw := (read_eq_ok hraw).1
  have hsub := (read_eq_ok hsub).1
  refine ⟨⟨Nat.le_add_left .., hraw⟩, Nat.le_of_lt_succ hsub, hnone, hmaster, ?_,
    List.forall_mem_map.mpr fun b hb => ?_⟩
  · rw [List.length_map, times_length hbooks]
  · have := times_read_lt hbooks b hb
    omega

theorem decodeFloor1_eq_ok {f : Floor1} (h : decodeFloor1 p c = .ok f d) : f.wf := by
  rw [decodeFloor1, Parser.bind_eq_ok] at h
  obtain ⟨partitions, c₁, hpartitions, h⟩ := h
  rw [Parser.bind_eq_ok] at h
  obtain ⟨classList, c₂, hlist, h⟩ := h
  split at h
  next => exact absurd h raise_bind_ne_ok
  next hpos =>
    simp only [Parser.bind_eq_ok] at h
    obtain ⟨classes, c₃, hclasses, raw, c₄, hraw, rangebits, c₅, hrange, xs, c₆, hxs, h⟩ := h
    split at h
    next => exact absurd h raise_bind_ne_ok
    next hle =>
      cases h
      have hlength := times_length hlist
      have hne : classList ≠ [] := List.ne_nil_of_length_pos (by omega)
      have hmem := foldr_max_mem hne
      have hmax := times_read_lt hlist _ hmem
      have hpartitions := (read_eq_ok hpartitions).1
      have hraw := (read_eq_ok hraw).1
      have hrange := (read_eq_ok hrange).1
      obtain ⟨hlen, hlt⟩ := xValues_eq_ok hxs
      refine ⟨⟨Nat.pos_of_ne_zero hpos, Nat.le_of_lt_succ hpartitions⟩, hlength,
        le_foldr_max, hmem, Nat.le_of_lt_succ hmax, times_length hclasses,
        times_forall (fun _ _ _ _ => decodeFloorClass_eq_ok) hclasses, ⟨Nat.le_add_left .., hraw⟩,
        Nat.le_of_lt_succ hrange, Nat.le_of_not_lt hle, ?_, rfl, hlt⟩
      dsimp only [List.length_cons]
      omega

theorem decodeFloor_eq_ok {f : Floor} (h : decodeFloor p c = .ok f d) : f.wf := by
  rw [decodeFloor, Parser.bind_eq_ok] at h
  obtain ⟨floorType, c₁, -, h⟩ := h
  split at h
  next =>
    rw [Parser.bind_eq_ok] at h
    obtain ⟨_, _, hf, ⟨⟩⟩ := h
    exact decodeFloor0_eq_ok hf
  next =>
    split at h
    next =>
      rw [Parser.bind_eq_ok] at h
      obtain ⟨_, _, hf, ⟨⟩⟩ := h
      exact decodeFloor1_eq_ok hf
    next => cases h

end

/-- Only a decoder that has succeeded leaves a record where there was none. -/
theorem State.runDecode_record {α : Type} {s : State} {mapped : Bool} {start : Nat} {ctx : ErrCtx}
    {decoder : Parser α} {wrap : α → Record} {r : Record} (hnone : s.record = none)
    (hr : (s.runDecode mapped start ctx (wrap <$> decoder)).record = some r) :
    ∃ a c, decoder ⟨start, ctx⟩ = .ok a c ∧ r = wrap a := by
  obtain ⟨reason, aux, -, heq⟩ | ⟨r', c, -, hdecode, heq⟩ | ⟨e, c, -, -, heq⟩ :=
    s.runDecode_cases mapped start ctx (wrap <$> decoder)
  · simp [heq, hnone] at hr
  · rw [heq] at hr
    obtain rfl : r' = r := Option.some.inj hr
    obtain ⟨a, ha, rfl⟩ := Parser.map_eq_ok hdecode
    exact ⟨a, c, ha, rfl⟩
  · simp [heq, hnone] at hr

/-- Settles O33: the record is one that the decoder has accepted, so it is well formed. -/
theorem acceptedFloor1Properties : Obligations.AcceptedFloor1Properties := by
  intro s t f hnone hexec ht
  rw [exec_decodeFloor] at hexec
  obtain rfl := Host.Outcome.next.inj hexec
  obtain ⟨_, _, hdecode, ⟨⟩⟩ := State.runDecode_record hnone ht
  obtain ⟨⟨hpos, hmany⟩, -, hle, hmem, -, hclasses, -, -, -, hshort, hlen, htake, hlt⟩ := decodeFloor_eq_ok hdecode
  have hfirst {j : Nat} (hj : j < 2) : f.xList[j]? = [0, 2 ^ f.rangebits][j]? := by
    rw [← htake, List.getElem?_take_of_lt hj]
  exact ⟨hshort, hlen, hpos, hmany, ⟨hmem, hle⟩, hclasses, hfirst Nat.zero_lt_two, hfirst Nat.one_lt_two, hlt⟩

/-! ## The fields of a residue record (45_residue.md R300 to R303) -/

section
variable {p : Payload}

/-- A list of values, each computed from a source with its own fields and its place in the list. -/
theorem Payload.Gives.times_map {α γ : Type} {f : Nat → Parser α} {fields : γ → Fields} {k : γ → α} {cs : List γ}
    {i : Nat} (h : ∀ j (hj : j < cs.length), p.Gives (f (i + j)) (fields cs[j]) (.ok (k cs[j]))) :
    p.Gives (Machine.times f cs.length i) (cs.flatMap fields) (.ok (cs.map k)) := by
  induction cs generalizing i with
  | nil => exact .pure []
  | cons c cs ih =>
    have hrest := ih (i := i + 1) fun j hj => by
      rw [Nat.add_right_comm, Nat.add_assoc]
      exact h (j + 1) (Nat.succ_lt_succ hj)
    exact (h 0 (Nat.zero_lt_succ _)).bind (hrest.bind_pure (k c :: ·))

/-- A cascade byte, with or without its high part (R301). -/
theorem gives_cascadeByte (cascade : Nat) (high : Bool) :
    p.Gives (cascadeByte p) (cascadeFields cascade high) (.ok cascade) := by
  cases high with
  | true =>
    have h : p.Gives (read p 5 >>= fun high => pure (high * 8 + cascade % 8)) [(5, cascade / 8)]
        (.ok (cascade / 8 * 8 + cascade % 8)) := .read_then (.pure _)
    rw [Nat.div_add_mod'] at h
    exact .read_then <| .flag_then (b := true) h
  | false =>
    have h : p.Gives (pure (0 * 8 + cascade)) [] (.ok cascade) := by
      rw [Nat.zero_mul, Nat.zero_add]
      exact .pure cascade
    exact .read_then <| .flag_then (b := false) h

theorem gives_cascade {cascade : List Nat} {high : List Bool} (hlen : high.length = cascade.length) :
    p.Gives (times (fun _ => cascadeByte p) cascade.length 0)
      ((cascade.zip high).flatMap fun x => cascadeFields x.1 x.2) (.ok cascade) := by
  have h := Payload.Gives.times_map (p := p) (f := fun _ => cascadeByte p) (fields := fun x => cascadeFields x.1 x.2)
    (cs := cascade.zip high) (k := Prod.fst) (i := 0) fun _ _ => gives_cascadeByte _ _
  rwa [List.map_fst_zip (Nat.le_of_eq hlen.symm), List.length_zip, hlen, Nat.min_self] at h

theorem gives_bookRow {cascade : Nat} {row : List (Option Nat)} (hrow : Residue.rowWf cascade row) :
    p.Gives (bookRow p cascade) (row.flatMap fun b => b.toList.map fun n => (8, n)) (.ok row) := by
  obtain ⟨hlen, hsome, -⟩ := hrow
  have h := Payload.Gives.times_map (p := p) (cs := row) (k := id) (i := 0)
    (f := fun j => if cascade.testBit j then some <$> read p 8 else pure none)
    (fields := fun b => b.toList.map fun n => (8, n)) fun j hj => by
      have hbit := hsome j (hlen ▸ hj)
      rw [List.getElem?_eq_getElem hj, Option.getD_some] at hbit
      rw [Nat.zero_add, ← hbit]
      cases row[j] with
      | none => exact .pure none
      | some n => exact (Payload.Gives.read 8 n).map some
  rwa [List.map_id, hlen] at h

theorem gives_bookRows {cascade : List Nat} {books : List (List (Option Nat))} (hlen : books.length = cascade.length)
    (hrows : ∀ x ∈ cascade.zip books, Residue.rowWf x.1 x.2) :
    p.Gives (bookRows p cascade) (books.flatMap fun row => row.flatMap fun b => b.toList.map fun n => (8, n))
      (.ok books) := by
  induction cascade generalizing books with
  | nil =>
    obtain rfl := List.eq_nil_of_length_eq_zero hlen
    exact .pure []
  | cons c cascade ih =>
    obtain ⟨row, books, rfl⟩ := List.exists_cons_of_length_eq_add_one hlen
    obtain ⟨hrow, hrows⟩ := List.forall_mem_cons.mp hrows
    exact (gives_bookRow hrow).bind ((ih (Nat.succ.inj hlen) hrows).bind_pure (row :: ·))

/-- The fields of a record: the type, and the rest, which the three types share (R300). -/
theorem gives_residueBody {r : Residue} {fs : Fields} (hwf : r.wf) (hfs : ResidueFields r fs) :
    ∃ body, fs = (16, r.residueType) :: body ∧ p.Gives (residueBody p r.residueType) body (.ok r) := by
  obtain ⟨high, hhigh, rfl⟩ := hfs
  obtain ⟨residueType, beginBound, endBound, partitionSize, classifications, classbook, cascade, books⟩ := r
  obtain ⟨-, -, -, ⟨hsize, -⟩, ⟨hclass, -⟩, -, hcascade, -, hbooks, hrows⟩ := hwf
  obtain ⟨rawSize, rfl⟩ := Nat.exists_eq_add_of_le' hsize
  obtain ⟨rawClass, rfl⟩ := Nat.exists_eq_add_of_le' hclass
  dsimp only at *
  have hbytes := gives_cascade (p := p) (hhigh.trans hcascade.symm)
  rw [hcascade] at hbytes
  rw [List.append_assoc]
  exact ⟨_, rfl, .read_then <| .read_then <| .read_then <| .read_then <| .read_then <|
    hbytes.bind <| (gives_bookRows (hbooks.trans hcascade.symm) hrows).bind_pure _⟩

end

/-! ## Tags that a whole record follows -/

section
variable {v : ParseVars} (r : Record)

theorem ParseVars.recordDone_emit (h : v.inSetup = false) : v.recordDone r = .emit r := by
  simp [ParseVars.recordDone, h]

theorem ParseVars.recordDone_next (h : v.inSetup = true) (hleft : 1 < v.left) :
    v.recordDone r = .more { v with
      header := pushRecord v.header r, left := v.left - 1, point := firstPoint v.stage } := by
  simp [ParseVars.recordDone, h, hleft]

theorem ParseVars.recordDone_last (h : v.inSetup = true) (hleft : v.left ≤ 1) :
    v.recordDone r = .more { v with
      header := pushRecord v.header r, left := 0, stage := nextStage v.stage
      point := listPoint (nextStage v.stage) } := by
  simp [ParseVars.recordDone, h, Nat.not_lt.mpr hleft]

end

/-- A field that ends its command with a record. -/
theorem State.applyField_of_gives_emit {s : State} {f : Parser Progress} {fs : Fields} {r : Record}
    (h : s.payload.Gives f fs (.ok (.emit r))) (hold : s.payload.holds s.bitPos.toNat fs = true) :
    s.applyField f =
      ({ s with bitPos := Word.low (s.bitPos.toNat + fs.bits), record := some r }).afterSuccess
        (Word.low (s.bitPos.toNat + fs.bits - s.parse.start)) 0 := by
  rw [State.applyField, h _ _ hold]
  rfl

/-- A tag and the rest of its record, as one field. -/
theorem gives_recordTag {p : Payload} {rest : Parser Record} {fs : Fields} {r : Record} (v : ParseVars) (n x : Nat)
    (h : p.Gives rest fs (.ok r)) :
    p.Gives (do consume p n; let r ← rest; return v.recordDone r) ((n, x) :: fs) (.ok (v.recordDone r)) :=
  (gives_consume n x).bind (h.bind_pure _)

theorem exec_residueTag_of_fields {s : State} {i : Instr} {x : Residue} {fs : Fields} (hwf : x.wf)
    (hfs : ResidueFields x fs)
    (hi : (x.residueType, i) ∈ [(0, Instr.residueType0), (1, .residueType1), (2, .residueType2)]) :
    ∃ f, exec i s = .next (s.applyField f) ∧ s.payload.Gives f fs (.ok (s.parse.recordDone (.residue x))) := by
  obtain ⟨body, rfl, hbody⟩ := gives_residueBody (p := s.payload) hwf hfs
  have htag := gives_recordTag s.parse 16 x.residueType (hbody.map Record.residue)
  simp only [List.mem_cons, Prod.mk.injEq, List.not_mem_nil, or_false] at hi
  obtain ⟨htype, rfl⟩ | ⟨htype, rfl⟩ | ⟨htype, rfl⟩ := hi <;> rw [htype] at htag ⊢ <;> exact ⟨_, rfl, htag⟩

/-- Settles O41: each tag reads its whole record, and what is next is what a complete record leaves. -/
theorem recordTagsReadTheirRecord : Obligations.RecordTagsReadTheirRecord := by
  intro s i r fs stage next hrecord hold
  obtain ⟨f, hexec, hgives, rfl, hpoint⟩ : ∃ f, exec i s = .next (s.applyField f) ∧
      s.payload.Gives f fs (.ok (s.parse.recordDone r)) ∧ nextStage stage = next ∧ listPoint next = .setupCount := by
    obtain ⟨f, hwf, rfl, rfl, rfl, rfl, rfl⟩ | ⟨f, hwf, rfl, rfl, rfl, rfl, rfl⟩ | ⟨x, hwf, hfs, rfl, rfl, rfl, hi⟩ |
      ⟨rfl, rfl, rfl, rfl, rfl⟩ := hrecord
    · exact ⟨_, rfl, gives_recordTag s.parse 16 0 ((gives_decodeFloor0 hwf).map _), rfl, rfl⟩
    · exact ⟨_, rfl, gives_recordTag s.parse 16 1 ((gives_decodeFloor1_of_wf hwf).map _), rfl, rfl⟩
    · obtain ⟨f, hexec, hgives⟩ := exec_residueTag_of_fields hwf hfs hi
      exact ⟨f, hexec, hgives, rfl, rfl⟩
    · exact ⟨_, rfl, gives_recordTag s.parse 16 0 (.pure _), rfl, rfl⟩
  rw [hexec]
  refine ⟨fun hsetup => ?_, ?_, ?_⟩
  · rw [ParseVars.recordDone_emit r hsetup] at hgives
    rw [State.applyField_of_gives_emit hgives hold]
  · rintro hsetup rfl hleft
    rw [ParseVars.recordDone_next r hsetup hleft] at hgives
    rw [State.applyField_of_gives hgives hold]
  · rintro hsetup rfl hleft
    rw [ParseVars.recordDone_last r hsetup hleft, hpoint] at hgives
    rw [State.applyField_of_gives hgives hold]

end Sys2Proof.Machine

/-! # The residue (45_residue.md), and what an accepted residue and an accepted mapping meet (R305, R328) -/

namespace Sys2Proof.Machine

/-! ## A residue record, by its tag -/

section
variable {p : Payload}

theorem gives_decodeResidue {r : Residue} {fs : Fields} (hwf : r.wf) (hfs : ResidueFields r fs) :
    p.Gives (decodeResidue p) fs (.ok r) := by
  obtain ⟨body, rfl, hbody⟩ := gives_residueBody (p := p) hwf hfs
  obtain ⟨htype, -⟩ := hwf
  refine .read_then ?_
  rwa [if_neg (Nat.not_lt.mpr htype)]

theorem gives_decodeResidue_error {v : Nat} (hv : 3 ≤ v) :
    p.Gives (decodeResidue p) [(16, v)] (.error ⟨.invalidEnumValue, v, 3⟩) :=
  .read_then <| by
    rw [if_pos (by omega)]
    exact .bind_error .raise

end

theorem exec_decodeResidue (s : State) : exec .decodeResidue s = .next (s.runDecode false s.bitPos.toNat
    ⟨.residue, false, 0⟩ (Record.residue <$> decodeResidue s.payload)) := rfl

/-- Settles O25: the fields after a legal tag are read in the grammar's order, and an illegal tag ends the decoder. -/
theorem decodeResidueReadsGrammar : Obligations.DecodeResidueReadsGrammar := by
  intro s hlen
  rw [exec_decodeResidue]
  refine ⟨fun r fs hwf hfs hold => ?_, fun v hv hold => ?_⟩
  · rw [State.runDecode_of_gives_ok hlen hold _ (gives_decodeResidue hwf hfs)]
  · rw [State.runDecode_of_gives_error hlen hold _ (gives_decodeResidue_error hv), ← low_toNat_add_toNat s.bitPos 16]
    rfl

/-! ## Decoders that have succeeded -/

section
variable {p : Payload} {c d : Cursor}

/-- A value that is read in one of two ways before the rest. -/
theorem ite_bind_eq_ok {α β : Type} {P : Prop} [Decidable P] {f f' : Parser α} {g : α → Parser β} {b : β}
    (h : (if P then f >>= g else f' >>= g) c = .ok b d) :
    ∃ a c', (if P then f else f') c = .ok a c' ∧ g a c' = .ok b d := by
  rwa [← apply_ite (· >>= g), Parser.bind_eq_ok] at h

/-- A check that has let its decoder go on. -/
theorem ite_raise_bind_eq_ok {α β : Type} {P : Prop} [Decidable P] {kind : ErrKind} {info aux : Nat}
    {f : α → Parser β} {g : Parser β} {b : β} (h : (if P then raise kind info aux >>= f else g) c = .ok b d) :
    ¬ P ∧ g c = .ok b d := by
  split at h
  next => exact absurd h raise_bind_ne_ok
  next hP => exact ⟨hP, h⟩

/-- `times_forall` for a property that looks at the place of a value. -/
theorem times_forall_getElem {α : Type} {P : Nat → α → Prop} {f : Nat → Parser α}
    (hf : ∀ i c a d, f i c = .ok a d → P i a) {n i : Nat} {as : List α} (h : times f n i c = .ok as d) :
    ∀ j (hj : j < as.length), P (i + j) as[j] := by
  induction n generalizing i c as with
  | zero =>
    cases h
    nofun
  | succ n ih =>
    obtain ⟨a, c', rest, ha, hrest, rfl⟩ := times_succ_eq_ok h
    intro j hj
    cases j with
    | zero => exact hf i c a c' ha
    | succ j => exact Nat.add_right_comm i 1 j ▸ ih hrest j (Nat.lt_of_succ_lt_succ hj)

/-! ### A residue -/

theorem cascadeByte_eq_ok {v : Nat} (h : cascadeByte p c = .ok v d) : v < 2 ^ 8 := by
  simp only [cascadeByte, Parser.bind_eq_ok] at h
  obtain ⟨low, c₁, hlow, bitflag, c₂, -, h⟩ := h
  obtain ⟨high, c₃, hhigh, h⟩ := ite_bind_eq_ok h
  cases h
  have hlow := (read_eq_ok hlow).1
  have hhigh : high < 2 ^ 5 := by
    split at hhigh
    next => exact (read_eq_ok hhigh).1
    next =>
      cases hhigh
      exact Nat.two_pow_pos 5
  omega

theorem bookEntry_eq_ok {bit : Bool} {b : Option Nat}
    (h : (if bit then some <$> read p 8 else pure none : Parser (Option Nat)) c = .ok b d) :
    b.isSome = bit ∧ ∀ n ∈ b, n < 2 ^ 8 := by
  cases bit with
  | false =>
    cases h
    exact ⟨rfl, nofun⟩
  | true =>
    obtain ⟨v, hread, rfl⟩ := Parser.map_eq_ok h
    refine ⟨rfl, ?_⟩
    rintro _ ⟨⟩
    exact (read_eq_ok hread).1

theorem bookRow_eq_ok {cascade : Nat} {row : List (Option Nat)} (h : bookRow p cascade c = .ok row d) :
    Residue.rowWf cascade row := by
  have hlen := times_length h
  refine ⟨hlen, fun j hj => ?_, times_forall (fun _ _ _ _ h => (bookEntry_eq_ok h).2) h⟩
  have hsome := times_forall_getElem (P := fun j b => b.isSome = cascade.testBit j)
    (fun _ _ _ _ h => (bookEntry_eq_ok h).1) h j (hlen ▸ hj)
  rwa [Nat.zero_add, ← Option.getD_some (a := row[j]) (b := none), ← List.getElem?_eq_getElem] at hsome

theorem bookRows_eq_ok {cascade : List Nat} {books : List (List (Option Nat))}
    (h : bookRows p cascade c = .ok books d) :
    books.length = cascade.length ∧ ∀ x ∈ cascade.zip books, Residue.rowWf x.1 x.2 := by
  induction cascade generalizing c books with
  | nil =>
    cases h
    exact ⟨rfl, List.forall_mem_nil _⟩
  | cons _ cascade ih =>
    simp only [bookRows, Parser.bind_eq_ok] at h
    obtain ⟨row, c₁, hrow, rows, c₂, hrows, h⟩ := h
    cases h
    obtain ⟨hlen, hall⟩ := ih hrows
    exact ⟨congrArg (· + 1) hlen, List.forall_mem_cons.mpr ⟨bookRow_eq_ok hrow, hall⟩⟩

theorem residueBody_eq_ok {residueType : Nat} {r : Residue} (htype : residueType ≤ 2)
    (h : residueBody p residueType c = .ok r d) : r.wf := by
  simp only [residueBody, Parser.bind_eq_ok] at h
  obtain ⟨beginBound, c₁, hbegin, endBound, c₂, hend, rawSize, c₃, hsize, rawClass, c₄, hclass, classbook, c₅, hbook,
    cascade, c₆, hcascade, books, c₇, hbooks, h⟩ := h
  cases h
  have hlen := times_length hcascade
  obtain ⟨hrows, hwf⟩ := bookRows_eq_ok hbooks
  exact ⟨htype, (read_eq_ok hbegin).1, (read_eq_ok hend).1, ⟨Nat.le_add_left .., (read_eq_ok hsize).1⟩,
    ⟨Nat.le_add_left .., (read_eq_ok hclass).1⟩, (read_eq_ok hbook).1, hlen,
    times_forall (fun _ _ _ _ => cascadeByte_eq_ok) hcascade, hrows.trans hlen, hwf⟩

theorem decodeResidue_eq_ok {r : Residue} (h : decodeResidue p c = .ok r d) : r.wf := by
  rw [decodeResidue, Parser.bind_eq_ok] at h
  obtain ⟨residueType, c₁, -, h⟩ := h
  obtain ⟨htype, h⟩ := ite_raise_bind_eq_ok h
  exact residueBody_eq_ok (Nat.le_of_not_lt htype) h

/-! ### A mapping -/

theorem couplingPair_eq_ok {ch : Nat} {x : Nat × Nat} (h : couplingPair p ch c = .ok x d) :
    x.1 ≠ x.2 ∧ x.1 < ch ∧ x.2 < ch := by
  simp only [couplingPair, Parser.bind_eq_ok] at h
  obtain ⟨m, c₁, -, a, c₂, -, h⟩ := h
  obtain ⟨hlegal, h⟩ := ite_raise_bind_eq_ok h
  cases h
  dsimp only
  omega

/-- The submap count and the coupling of a mapping for `ch` channels, as R321 and R322 leave them. -/
structure CouplingAccepted (ch : Nat) (h : MappingHead) : Prop where
  submaps : 1 ≤ h.submaps ∧ h.submaps ≤ 16
  steps : h.couplingSteps ≤ 256
  magnitude : h.magnitude.length = h.couplingSteps
  angle : h.angle.length = h.couplingSteps
  pairs : ∀ x ∈ h.magnitude.zip h.angle, x.1 ≠ x.2 ∧ x.1 < ch ∧ x.2 < ch

theorem submapCount_eq_ok {many : Bool} {submaps : Nat}
    (h : (if many then (· + 1) <$> read p 4 else pure 1 : Parser Nat) c = .ok submaps d) :
    1 ≤ submaps ∧ submaps ≤ 16 := by
  cases many with
  | false =>
    cases h
    decide
  | true =>
    obtain ⟨raw, hraw, rfl⟩ := Parser.map_eq_ok h
    exact ⟨Nat.le_add_left .., (read_eq_ok hraw).1⟩

theorem mappingCoupling_eq_ok {ch : Nat} {x : MappingHead} (h : mappingCoupling p ch c = .ok x d) :
    CouplingAccepted ch x := by
  rw [mappingCoupling, Parser.bind_eq_ok] at h
  obtain ⟨many, c₁, -, h⟩ := h
  obtain ⟨submaps, c₂, hsubmaps, h⟩ := ite_bind_eq_ok h
  have hsubmaps := submapCount_eq_ok hsubmaps
  rw [Parser.bind_eq_ok] at h
  obtain ⟨coupled, c₃, -, h⟩ := h
  cases coupled with
  | false =>
    cases h
    exact ⟨hsubmaps, Nat.zero_le 256, rfl, rfl, nofun⟩
  | true =>
    simp only [if_true, Parser.bind_eq_ok] at h
    obtain ⟨raw, c₄, hraw, pairs, c₅, hpairs, h⟩ := h
    cases h
    have hlen := times_length hpairs
    refine ⟨hsubmaps, (read_eq_ok hraw).1, by rw [List.length_map, hlen], by rw [List.length_map, hlen], ?_⟩
    rw [← List.zip_of_prod rfl rfl]
    exact times_forall (fun _ _ _ _ => couplingPair_eq_ok) hpairs

theorem muxValue_eq_ok {submaps v : Nat} (h : muxValue p submaps c = .ok v d) : v < submaps := by
  rw [muxValue, Parser.bind_eq_ok] at h
  obtain ⟨v, c₁, -, h⟩ := h
  obtain ⟨hlegal, h⟩ := ite_raise_bind_eq_ok h
  cases h
  exact Nat.lt_of_not_le hlegal

/-- The multiplex of R325, which a single submap leaves unread. -/
theorem mux_eq_ok {submaps ch : Nat} {mux : List Nat} (hpos : 1 ≤ submaps)
    (h : (if submaps > 1 then times (fun _ => muxValue p submaps) ch 0 else pure (List.replicate ch 0)) c =
      .ok mux d) : mux.length = ch ∧ ∀ v ∈ mux, v < submaps := by
  split at h
  next => exact ⟨times_length h, times_forall (fun _ _ _ _ => muxValue_eq_ok) h⟩
  next =>
    cases h
    refine ⟨List.length_replicate, fun v hv => ?_⟩
    rw [List.eq_of_mem_replicate hv]
    exact hpos

theorem submapRecord_eq_ok {x : Submap} (h : submapRecord p c = .ok x d) : x.floor < 2 ^ 8 ∧ x.residue < 2 ^ 8 := by
  simp only [submapRecord, Parser.bind_eq_ok] at h
  obtain ⟨_, c₁, -, floor, c₂, hfloor, residue, c₃, hresidue, h⟩ := h
  cases h
  exact ⟨(read_eq_ok hfloor).1, (read_eq_ok hresidue).1⟩

theorem mappingMux_eq_ok {ch : Nat} {x : MappingHead} {m : Mapping} (hx : CouplingAccepted ch x)
    (h : mappingMux p ch x c = .ok m d) : m.wf ∧ m.mux.length = ch := by
  rw [mappingMux] at h
  obtain ⟨mux, c₁, hmux, h⟩ := ite_bind_eq_ok h
  rw [Parser.bind_eq_ok] at h
  obtain ⟨submapsVec, c₂, hvec, h⟩ := h
  cases h
  obtain ⟨hlen, hlt⟩ := mux_eq_ok hx.submaps.1 hmux
  have hpairs := hx.pairs
  rw [← hlen] at hpairs
  exact ⟨⟨rfl, hx.submaps, hx.steps, hx.magnitude, hx.angle, hpairs, hlt, times_length hvec,
    times_forall (fun _ _ _ _ => submapRecord_eq_ok) hvec⟩, hlen⟩

theorem decodeMapping_eq_ok {ch : Nat} {m : Mapping} (h : decodeMapping p ch c = .ok m d) :
    m.wf ∧ m.mux.length = ch := by
  simp only [decodeMapping, Parser.bind_eq_ok] at h
  obtain ⟨_, c₁, -, x, c₂, hcoupling, _, c₃, -, h⟩ := h
  exact mappingMux_eq_ok (mappingCoupling_eq_ok hcoupling) h

end

/-! ## Accepted records (R305, R328) -/

theorem exec_decodeMapping (s : State) : exec .decodeMapping s = .next (s.runDecode true s.bitPos.toNat
    ⟨.mapping, false, 0⟩ (Record.mapping <$> decodeMapping s.payload s.channels)) := rfl

theorem rowWf_of_getElem? {cascade : List Nat} {books : List (List (Option Nat))}
    (hrows : ∀ x ∈ cascade.zip books, Residue.rowWf x.1 x.2) {i c : Nat} {row : List (Option Nat)}
    (hc : cascade[i]? = some c) (hrow : books[i]? = some row) : Residue.rowWf c row :=
  hrows (c, row) (List.mem_of_getElem? (List.getElem?_zip_eq_some.mpr ⟨hc, hrow⟩))

theorem getElem?_eq_some_iff_of_rowWf {cascade : Nat} {row : List (Option Nat)} (h : Residue.rowWf cascade row)
    {j : Nat} (hj : j < 8) : (∃ b, row[j]? = some (some b)) ↔ cascade.testBit j = true := by
  obtain ⟨-, hsome, -⟩ := h
  rw [← hsome j hj, Option.isSome_iff_exists]
  cases row[j]? <;> simp

/-- Settles O34: each record is one that its decoder has accepted, so it is well formed. -/
theorem acceptedResidueAndMappingProperties : Obligations.AcceptedResidueAndMappingProperties := by
  intro s t hnone
  refine ⟨fun r hexec ht => ?_, fun m hexec ht => ?_⟩
  · rw [exec_decodeResidue] at hexec
    obtain rfl := Host.Outcome.next.inj hexec
    obtain ⟨_, _, hdecode, ⟨⟩⟩ := State.runDecode_record hnone ht
    obtain ⟨-, -, -, ⟨hsize, -⟩, -, -, hcascade, -, hbooks, hrows⟩ := decodeResidue_eq_ok hdecode
    refine ⟨hcascade, hbooks, fun row hrow => ?_, fun i j c row hc hrow hj => ?_, hsize⟩
    · obtain ⟨i, hi, rfl⟩ := List.getElem_of_mem hrow
      have hi' : i < r.cascade.length := by omega
      obtain ⟨hlen, -⟩ := rowWf_of_getElem? hrows (List.getElem?_eq_getElem hi') (List.getElem?_eq_getElem hi)
      exact hlen
    · exact getElem?_eq_some_iff_of_rowWf (rowWf_of_getElem? hrows hc hrow) hj
  · rw [exec_decodeMapping] at hexec
    obtain rfl := Host.Outcome.next.inj hexec
    obtain ⟨_, _, hdecode, ⟨⟩⟩ := State.runDecode_record hnone ht
    obtain ⟨⟨htype, -, -, hmagnitude, hangle, hpairs, hmux, hvec, -⟩, hch⟩ := decodeMapping_eq_ok hdecode
    rw [hch] at hpairs
    exact ⟨htype, hmagnitude, hangle, fun k a b ha hb =>
      hpairs (a, b) (List.mem_of_getElem? (List.getElem?_zip_eq_some.mpr ⟨ha, hb⟩)), hch, hmux, hvec⟩

end Sys2Proof.Machine

/-! # The mapping (46_mapping.md)

The decoder on the fields that the grammar writes, and its errors. -/

namespace Sys2Proof.Machine

section
variable {p : Payload} {fs : Fields}

/-- A value that is read in one of two ways before the rest; `ite_bind_eq_ok` is its inversion. -/
theorem Payload.Gives.ite_bind {α β : Type} {P : Prop} [Decidable P] {f f' : Parser α} {g : α → Parser β}
    {x : Except Raise β} (h : p.Gives ((if P then f else f') >>= g) fs x) :
    p.Gives (if P then f >>= g else f' >>= g) fs x := by
  rwa [apply_ite (· >>= g)] at h

/-- A list whose values are legal up to one that is not. -/
theorem Payload.Gives.times_error {α : Type} {f : Nat → Parser α} {fields : α → Fields} {as : List α} {e : Raise}
    (h : ∀ i, ∀ a ∈ as, p.Gives (f i) (fields a) (.ok a)) (herr : ∀ i, p.Gives (f i) fs (.error e)) {n : Nat}
    (hlt : as.length < n) (i : Nat) : p.Gives (Machine.times f n i) (as.flatMap fields ++ fs) (.error e) := by
  induction n generalizing as i with
  | zero => cases hlt
  | succ n ih =>
    cases as with
    | nil => exact (herr i).bind_error
    | cons a as =>
      have hrest := ih (fun i b hb => h i b (List.mem_cons_of_mem a hb)) (Nat.lt_of_succ_lt_succ hlt) (i + 1)
      rw [List.flatMap_cons, List.append_assoc]
      exact (h i a List.mem_cons_self).bind hrest.bind_error

/-! ## The fields with a fixed value (R320, R324) -/

theorem gives_mappingType : p.Gives (mappingType p) [(16, 0)] (.ok ()) := .read_then (.pure ())

theorem gives_mappingType_error {v : Nat} (hv : v ≠ 0) :
    p.Gives (mappingType p) [(16, v)] (.error ⟨.reservedFieldViolation, v, 2⟩) :=
  .read_then (by rw [if_pos hv]; exact .raise)

theorem gives_mappingReserved : p.Gives (mappingReserved p) [(2, 0)] (.ok ()) := .read_then (.pure ())

theorem gives_mappingReserved_error {v : Nat} (hv : v ≠ 0) :
    p.Gives (mappingReserved p) [(2, v)] (.error ⟨.reservedFieldViolation, v, 3⟩) :=
  .read_then (by rw [if_pos hv]; exact .raise)

/-! ## The submap count and the coupling (R321, R322) -/

/-- The submap count that its fields say, before what is read after it. -/
theorem gives_submapCount_then {β : Type} {g : Nat → Parser β} {x : Except Raise β} {many : Bool} {submaps : Nat}
    (hg : p.Gives (g (if many then submaps - 1 + 1 else 1)) fs x) :
    p.Gives (flag p >>= fun many => if many then (· + 1) <$> read p 4 >>= g else pure 1 >>= g)
      (submapsFields many submaps ++ fs) x := by
  cases many with
  | false => exact .flag_then (b := false) <| .then_of_nil (.pure 1) hg
  | true => exact .flag_then (b := true) <| ((Payload.Gives.read 4 (submaps - 1)).map (· + 1)).bind hg

theorem gives_couplingPair {ch : Nat} {x : Nat × Nat} (h : x.1 ≠ x.2 ∧ x.1 < ch ∧ x.2 < ch) :
    p.Gives (couplingPair p ch) [(ilog (ch - 1), x.1), (ilog (ch - 1), x.2)] (.ok x) :=
  .read_then <| .read_then <| by
    rw [if_neg (by omega)]
    exact .pure x

theorem gives_couplingPair_error {ch m a : Nat} (h : m = a ∨ ch ≤ m ∨ ch ≤ a) :
    p.Gives (couplingPair p ch) [(ilog (ch - 1), m), (ilog (ch - 1), a)]
      (.error ⟨.couplingConstraintViolation, m, a⟩) :=
  .read_then <| .read_then <| by
    rw [if_pos h]
    exact .bind_error .raise

/-- A coupling that is present, by what its pairs answer. -/
theorem gives_mappingCoupling_of_pairs {ch raw : Nat} {x : Except Raise (List (Nat × Nat))}
    (h : p.Gives (times (fun _ => couplingPair p ch) (raw + 1) 0) fs x) (many : Bool) (submaps : Nat) :
    p.Gives (mappingCoupling p ch) (submapsFields many submaps ++ [(1, 1), (8, raw)] ++ fs)
      (x.map fun pairs => ⟨if many then submaps - 1 + 1 else 1, raw + 1, pairs.map Prod.fst, pairs.map Prod.snd⟩) := by
  rw [List.append_assoc]
  exact gives_submapCount_then <| .flag_then (b := true) <| .read_then <| h.bind_pure _

theorem gives_mappingCoupling_absent (ch : Nat) (many : Bool) (submaps : Nat) :
    p.Gives (mappingCoupling p ch) (submapsFields many submaps ++ [(1, 0)])
      (.ok ⟨if many then submaps - 1 + 1 else 1, 0, [], []⟩) :=
  gives_submapCount_then <| .flag_then (b := false) <| .pure _

/-- The mapping under construction after its coupling. -/
def mappingHead (m : Mapping) : MappingHead := ⟨m.submaps, m.couplingSteps, m.magnitude, m.angle⟩

theorem gives_mappingCoupling {m : Mapping} (hwf : m.wf) {many : Bool} (hmany : many = false → m.submaps = 1) :
    p.Gives (mappingCoupling p m.mux.length) (submapsFields many m.submaps ++ couplingFields m)
      (.ok (mappingHead m)) := by
  obtain ⟨-, ⟨hpos, -⟩, -, hmagnitude, hangle, hpairs, -⟩ := hwf
  have hcount : (if many then m.submaps - 1 + 1 else 1) = m.submaps := by
    cases many with
    | false => exact (hmany rfl).symm
    | true => exact Nat.sub_add_cancel hpos
  obtain ⟨_, submaps, couplingSteps, magnitude, angle, mux, _⟩ := m
  dsimp only at *
  cases couplingSteps with
  | zero =>
    obtain rfl := List.eq_nil_of_length_eq_zero hmagnitude
    obtain rfl := List.eq_nil_of_length_eq_zero hangle
    have h := gives_mappingCoupling_absent (p := p) mux.length many submaps
    rwa [hcount] at h
  | succ raw =>
    have hzip : (magnitude.zip angle).length = raw + 1 := by rw [List.length_zip, hmagnitude, hangle, Nat.min_self]
    have htimes := Payload.Gives.times (p := p) (fun _ x hx => gives_couplingPair (hpairs x hx)) 0
    rw [hzip] at htimes
    have h := gives_mappingCoupling_of_pairs htimes many submaps
    rw [Except.map, hcount, List.map_fst_zip (by omega), List.map_snd_zip (by omega), List.append_assoc] at h
    exact h

theorem gives_mappingCoupling_error {ch steps m a : Nat} {good : List (Nat × Nat)} (hlen : good.length ≤ steps)
    (hgood : ∀ x ∈ good, x.1 ≠ x.2 ∧ x.1 < ch ∧ x.2 < ch) (h : m = a ∨ ch ≤ m ∨ ch ≤ a) (many : Bool)
    (submaps : Nat) :
    p.Gives (mappingCoupling p ch)
      (submapsFields many submaps ++ [(1, 1), (8, steps)] ++
        (good ++ [(m, a)]).flatMap fun x => [(ilog (ch - 1), x.1), (ilog (ch - 1), x.2)])
      (.error ⟨.couplingConstraintViolation, m, a⟩) := by
  rw [List.flatMap_append]
  exact gives_mappingCoupling_of_pairs (.times_error (fun _ x hx => gives_couplingPair (hgood x hx))
    (fun _ => gives_couplingPair_error h) (Nat.lt_succ_of_le hlen) 0) many submaps

/-! ## The multiplex and the submap records (R325, R326) -/

theorem gives_muxValue {submaps v : Nat} (hv : v < submaps) : p.Gives (muxValue p submaps) [(4, v)] (.ok v) :=
  .read_then <| by
    rw [if_neg (Nat.not_le.mpr hv)]
    exact .pure v

theorem gives_muxValue_error {submaps v : Nat} (hv : submaps ≤ v) :
    p.Gives (muxValue p submaps) [(4, v)] (.error ⟨.muxOutOfRange, v, submaps⟩) :=
  .read_then <| by
    rw [if_pos hv]
    exact .bind_error .raise

/-- The multiplex, which a single submap leaves unwritten. -/
theorem gives_mux {submaps : Nat} {mux : List Nat} (hmux : ∀ v ∈ mux, v < submaps) :
    p.Gives (if submaps > 1 then times (fun _ => muxValue p submaps) mux.length 0
        else pure (List.replicate mux.length 0))
      (if submaps > 1 then mux.map fun v => (4, v) else []) (.ok mux) := by
  split
  next =>
    rw [List.map_eq_flatMap]
    exact .times (fun _ v hv => gives_muxValue (hmux v hv)) 0
  next hone =>
    have hzero : mux = List.replicate mux.length 0 := List.eq_replicate_of_mem fun v hv => by
      have := hmux v hv
      omega
    rw [← hzero]
    exact .pure mux

/-- A submap record, after the byte that it discards. -/
theorem gives_submapRecord (x : Nat × Submap) :
    p.Gives (submapRecord p) [(8, x.1), (8, x.2.floor), (8, x.2.residue)] (.ok x.2) :=
  .read_then <| .read_then <| .read_then <| .pure x.2

theorem gives_submapRecords {n : Nat} {unused : List Nat} {submaps : List Submap} (hunused : unused.length = n)
    (hsubmaps : submaps.length = n) :
    p.Gives (times (fun _ => submapRecord p) n 0)
      ((unused.zip submaps).flatMap fun x => [(8, x.1), (8, x.2.floor), (8, x.2.residue)]) (.ok submaps) := by
  have h := Payload.Gives.times_map (p := p) (f := fun _ => submapRecord p)
    (fields := fun x : Nat × Submap => [(8, x.1), (8, x.2.floor), (8, x.2.residue)]) (cs := unused.zip submaps)
    (k := Prod.snd) (i := 0) fun _ _ => gives_submapRecord _
  rwa [List.map_snd_zip (by omega), List.length_zip, hunused, hsubmaps, Nat.min_self] at h

theorem gives_mappingMux {m : Mapping} (hwf : m.wf) {unused : List Nat} (hunused : unused.length = m.submaps) :
    p.Gives (mappingMux p m.mux.length (mappingHead m))
      ((if m.submaps > 1 then m.mux.map fun v => (4, v) else []) ++
        (unused.zip m.submapsVec).flatMap fun x => [(8, x.1), (8, x.2.floor), (8, x.2.residue)]) (.ok m) := by
  obtain ⟨htype, -, -, -, -, -, hmux, hvec, -⟩ := hwf
  obtain ⟨mappingType, _, _, _, _, _, _⟩ := m
  obtain rfl : mappingType = 0 := htype
  exact .ite_bind <| (gives_mux hmux).bind ((gives_submapRecords hunused hvec).bind_pure _)

theorem gives_mappingMux_error {ch : Nat} {h : MappingHead} {good : List Nat} {v : Nat} (hmany : h.submaps > 1)
    (hlen : good.length < ch) (hgood : ∀ x ∈ good, x < h.submaps) (hv : h.submaps ≤ v) :
    p.Gives (mappingMux p ch h) ((good ++ [v]).map fun x => (4, x)) (.error ⟨.muxOutOfRange, v, h.submaps⟩) := by
  rw [List.map_append, List.map_eq_flatMap]
  refine .ite_bind ?_
  rw [if_pos hmany]
  exact .bind_error <|
    .times_error (fun _ x hx => gives_muxValue (hgood x hx)) (fun _ => gives_muxValue_error hv) hlen 0

/-! ## The whole record -/

/-- The type, the submap count and the coupling of a legal mapping, before what is read after them. -/
theorem gives_decodeMapping_of_rest {m : Mapping} {x : Except Raise Mapping} (hwf : m.wf) {many : Bool}
    (hmany : many = false → m.submaps = 1)
    (h : p.Gives (mappingReserved p >>= fun _ => mappingMux p m.mux.length (mappingHead m)) fs x) :
    p.Gives (decodeMapping p m.mux.length)
      ([(16, 0)] ++ submapsFields many m.submaps ++ couplingFields m ++ fs) x :=
  gives_mappingType.bind <| (gives_mappingCoupling hwf hmany).bind h

theorem gives_decodeMapping {m : Mapping} (hwf : m.wf) (hfs : MappingFields m fs) :
    p.Gives (decodeMapping p m.mux.length) fs (.ok m) := by
  obtain ⟨many, unused, hmany, hunused, rfl⟩ := hfs
  rw [List.append_assoc, List.append_assoc]
  exact gives_decodeMapping_of_rest hwf hmany <| gives_mappingReserved.bind <| gives_mappingMux hwf hunused

end

section
variable {s : State} {fs : Fields} (hlen : s.inLen.toNat ≤ s.params.inCap) (hch : s.audioChannels ≠ 0)
  (hold : s.payload.holds s.bitPos.toNat fs = true)
include hlen hch hold

theorem exec_decodeMapping_of_ok {m : Mapping}
    (h : s.payload.Gives (decodeMapping s.payload s.audioChannels.toNat) fs (.ok m)) :
    exec .decodeMapping s =
      .next (({ s with
        bitPos := Word.low (s.bitPos.toNat + fs.bits), record := some (.mapping m) }).afterSuccess
          (Word.low fs.bits) 0) := by
  rw [exec_decodeMapping, State.channels,
    State.runDecode_of_gives (State.decodeCheck_none true hlen fun _ => hch) _ h hold]
  simp [answerAt, Except.map]

theorem exec_decodeMapping_of_error {kind : ErrKind} {info aux : Nat}
    (h : s.payload.Gives (decodeMapping s.payload s.audioChannels.toNat) fs (.error ⟨kind, info, aux⟩)) :
    exec .decodeMapping s =
      .next (({ s with bitPos := Word.low (s.bitPos.toNat + fs.bits) }).afterError
        kind.code (Word.low info) (Word.low aux) 0x0005) := by
  rw [exec_decodeMapping, State.channels,
    State.runDecode_of_gives (State.decodeCheck_none true hlen fun _ => hch) _ h hold]
  rfl

end

/-- Settles O26: the fields are read in the grammar's order. -/
theorem decodeMappingReadsGrammar : Obligations.DecodeMappingReadsGrammar := by
  intro s m fs hlen hch hwf hmux hfs hold
  have h := gives_decodeMapping (p := s.payload) hwf hfs
  rw [hmux] at h
  exact exec_decodeMapping_of_ok hlen hch hold h

/-- Settles O27: a field or a pair whose check fails ends the decoder, whatever legal fields were read before it. -/
theorem decodeMappingErrors : Obligations.DecodeMappingErrors := by
  rintro s _ hlen rfl hch
  have hch : s.audioChannels ≠ 0 := mt (congrArg BitVec.toNat) hch
  refine ⟨fun v hv hold => ?_, fun many submaps steps good m a hsteps hgood hbad hold => ?_,
    fun many r hwf hmux hmany => ?_⟩
  · exact exec_decodeMapping_of_error hlen hch hold (gives_mappingType_error hv).bind_error
  · have h := gives_mappingCoupling_error (p := s.payload) hsteps hgood hbad many submaps
    exact exec_decodeMapping_of_error hlen hch hold (gives_mappingType.bind h.bind_error)
  · have fail {fs : Fields} {kind : ErrKind} {info aux : Nat}
        (h : s.payload.Gives (mappingReserved s.payload >>= fun _ => mappingMux s.payload r.mux.length (mappingHead r))
          fs (.error ⟨kind, info, aux⟩))
        (hold : s.payload.holds s.bitPos.toNat
          ([(16, 0)] ++ submapsFields many r.submaps ++ couplingFields r ++ fs) = true) :=
      exec_decodeMapping_of_error hlen hch hold (hmux ▸ gives_decodeMapping_of_rest hwf hmany h)
    refine ⟨fun v hv => fail (gives_mappingReserved_error hv).bind_error, fun good v hsubmaps hshort hgood hv => ?_⟩
    rw [List.append_assoc (bs := [(2, 0)])]
    exact fail <| gives_mappingReserved.bind <|
      gives_mappingMux_error (h := mappingHead r) hsubmaps (hmux ▸ hshort) hgood hv

end Sys2Proof.Machine

/-! # The mode and the time-domain transform (47_mode_tdt.md)

The decoders on the fields that the grammar writes, and their errors. -/

namespace Sys2Proof.Machine

/-! ## A record command whose decoder meets the end of the payload -/

theorem read_bind_of_short {α : Type} {p : Payload} {n : Nat} {c : Cursor} (hn : n ≠ 0)
    (h : 8 * p.len < c.pos + n) (g : Nat → Parser α) :
    (read p n >>= g) c = .error ⟨.prematureEndOfData, c.pos, n⟩ c :=
  Parser.bind_of_error (read_of_short hn h)

/-- A decode command whose first field, `n` bits wide, runs past the payload. -/
theorem State.runDecode_of_cut_at_start {α : Type} {s : State} {decoder : Parser α} {wrap : α → Record}
    {mapped : Bool} {ctx : ErrCtx} {n : Nat} (hcheck : s.decodeCheck mapped = none)
    (h : decoder ⟨s.bitPos.toNat, ctx⟩ = .error ⟨.prematureEndOfData, s.bitPos.toNat, n⟩ ⟨s.bitPos.toNat, ctx⟩) :
    s.runDecode mapped s.bitPos.toNat ctx (wrap <$> decoder) = s.afterError 7 s.bitPos (Word.low n) ctx.word := by
  rw [State.runDecode_of_check hcheck, Parser.map_apply, h]
  simp [Word.low, ErrKind.code]

/-! ## A time-domain transform record (R344) -/

section
variable {p : Payload}

theorem gives_decodeTdt : p.Gives (decodeTdt p) [(16, 0)] (.ok ⟨0⟩) := .read_then (.pure _)

theorem gives_decodeTdt_error {v : Nat} (hv : v ≠ 0) :
    p.Gives (decodeTdt p) [(16, v)] (.error ⟨.reservedFieldViolation, v, 1⟩) :=
  .read_then <| by
    rw [if_pos hv]
    exact .bind_error .raise

theorem decodeTdt_of_short {c : Cursor} (h : 8 * p.len < c.pos + 16) :
    decodeTdt p c = .error ⟨.prematureEndOfData, c.pos, 16⟩ c :=
  read_bind_of_short (by decide) h _

/-! ## A mode record (R340, R341) -/

theorem gives_modeWindow : p.Gives (modeWindow p) [(16, 0)] (.ok ()) := .read_then (.pure ())

theorem gives_modeWindow_error {v : Nat} (hv : v ≠ 0) :
    p.Gives (modeWindow p) [(16, v)] (.error ⟨.reservedFieldViolation, v, 4⟩) :=
  .read_then (by rw [if_pos hv]; exact .raise)

theorem gives_modeTransform : p.Gives (modeTransform p) [(16, 0)] (.ok ()) := .read_then (.pure ())

theorem gives_modeTransform_error {v : Nat} (hv : v ≠ 0) :
    p.Gives (modeTransform p) [(16, v)] (.error ⟨.reservedFieldViolation, v, 5⟩) :=
  .read_then (by rw [if_pos hv]; exact .raise)

theorem gives_decodeMode {m : Mode} (hwf : m.wf) : p.Gives (decodeMode p) (modeFields m) (.ok m) := by
  obtain ⟨blockflag, windowType, transformType, mapping⟩ := m
  obtain ⟨rfl, rfl, -⟩ := hwf
  exact .flag_then <| gives_modeWindow.bind <| gives_modeTransform.bind <| .read_then <| .pure _

theorem gives_decodeMode_window_error (b : Nat) {v : Nat} (hv : v ≠ 0) :
    p.Gives (decodeMode p) [(1, b), (16, v)] (.error ⟨.reservedFieldViolation, v, 4⟩) :=
  (Payload.Gives.flag_of_nat b).bind (gives_modeWindow_error hv).bind_error

theorem gives_decodeMode_transform_error (b : Nat) {v : Nat} (hv : v ≠ 0) :
    p.Gives (decodeMode p) [(1, b), (16, 0), (16, v)] (.error ⟨.reservedFieldViolation, v, 5⟩) :=
  (Payload.Gives.flag_of_nat b).bind <| gives_modeWindow.bind (gives_modeTransform_error hv).bind_error

end

/-! ## The commands (R342, R345) -/

theorem exec_decodeTdt (s : State) : exec .decodeTdt s = .next (s.runDecode false s.bitPos.toNat
    ⟨.tdt, false, 0⟩ (Record.tdt <$> decodeTdt s.payload)) := rfl

theorem exec_decodeMode (s : State) : exec .decodeMode s = .next (s.runDecode false s.bitPos.toNat
    ⟨.mode, false, 0⟩ (Record.mode <$> decodeMode s.payload)) := rfl

/-- Settles O21: the one field is 0, or not 0 and ends the decoder once it is read, or is cut and moves no cursor. -/
theorem decodeTdtCases : Obligations.DecodeTdtCases := by
  intro s hlen
  rw [exec_decodeTdt, ← low_toNat_add_toNat s.bitPos 16]
  refine ⟨fun hold => ?_, fun v hv hold => ?_, fun hshort => ?_⟩
  · rw [State.runDecode_of_gives_ok hlen hold _ gives_decodeTdt]
    rfl
  · rw [State.runDecode_of_gives_error hlen hold _ (gives_decodeTdt_error hv)]
    rfl
  · rw [State.runDecode_of_cut_at_start (State.decodeCheck_none false hlen nofun) (decodeTdt_of_short hshort)]
    rfl

/-- Settles O22: the fields are read in the grammar's order, and each reserved field is checked before the next is
read. -/
theorem decodeModeCases : Obligations.DecodeModeCases := by
  intro s hlen
  rw [exec_decodeMode]
  refine ⟨fun m hwf hold => ?_, fun b v hv hold => ?_, fun b v hv hold => ?_⟩
  · rw [State.runDecode_of_gives_ok hlen hold _ (gives_decodeMode hwf), ← low_toNat_add_toNat s.bitPos 41]
    rfl
  · rw [State.runDecode_of_gives_error hlen hold _ (gives_decodeMode_window_error b hv),
      ← low_toNat_add_toNat s.bitPos 17]
    rfl
  · rw [State.runDecode_of_gives_error hlen hold _ (gives_decodeMode_transform_error b hv),
      ← low_toNat_add_toNat s.bitPos 33]
    rfl

end Sys2Proof.Machine

/-! # The setup header (48_setup.md)

The orchestrator as one loop over the stages, on the lists that the grammar writes, and its errors. -/

namespace Sys2Proof.Machine

/-! ## The orchestrator, stage by stage (R360) -/

/-- The decoder of a stage's records. There are no records outside the six lists. -/
def recordDecoder (params : Params) (p : Payload) (ch : Nat) : Stage → Parser Record
  | .codebook => Record.codebook <$> decodeCodebook params p
  | .tdt => Record.tdt <$> decodeTdt p
  | .floor => Record.floor <$> decodeFloor p
  | .residue => Record.residue <$> decodeResidue p
  | .mapping => Record.mapping <$> decodeMapping p ch
  | .mode => Record.mode <$> decodeMode p
  | .outside => raise .contractViolation 0 0
  | .framing => raise .contractViolation 0 0

/-- The six stages that have a list, in their order. -/
def setupStages : List Stage := [.codebook, .tdt, .floor, .residue, .mapping, .mode]

/-- The width of a stage's count field (30_encoding.md R115). -/
def countWidth (stage : Stage) : Nat := if stage = .codebook then 8 else 6

/-- `n` records of a list from index `i` on, each appended to the header (R360). -/
def decodeRecords (decoder : Parser Record) (stage : Stage) : Nat → Nat → SetupHeader → Parser SetupHeader
  | 0, _, h => pure h
  | n + 1, i, h => do
    setCtx stage false i
    let r ← decoder
    decodeRecords decoder stage n (i + 1) (pushRecord h r)

/-- One count-prefixed list, appended to the header (R360, R361). -/
def setupList (params : Params) (p : Payload) (ch : Nat) (stage : Stage) (h : SetupHeader) : Parser SetupHeader := do
  setCtx stage true 0
  let raw ← read p (countWidth stage)
  decodeRecords (recordDecoder params p ch stage) stage (raw + 1) 0 h

/-- The lists of some stages in their order. -/
def setupLists (params : Params) (p : Payload) (ch : Nat) : List Stage → SetupHeader → Parser SetupHeader
  | [], h => pure h
  | stage :: rest, h => setupList params p ch stage h >>= setupLists params p ch rest

section
variable {params : Params} {p : Payload} {ch : Nat} {β : Type}

/-- The records of `times`, appended one by one as they are read. -/
theorem times_bind_pushRecord {α : Type} (decoder : Parser α) (wrap : α → Record) (stage : Stage) (n i : Nat)
    (h : SetupHeader) (k : SetupHeader → Parser β) :
    (times (fun i => do setCtx stage false i; decoder) n i >>= fun rs => k ((rs.map wrap).foldl pushRecord h)) =
      decodeRecords (wrap <$> decoder) stage n i h >>= k := by
  induction n generalizing i h with
  | zero => rfl
  | succ n ih =>
    rw [times_succ, decodeRecords]
    simp only [bind_assoc, map_eq_pure_bind, pure_bind]
    refine bind_congr fun _ => bind_congr fun r => ?_
    rw [← map_eq_pure_bind, ← ih]
    rfl

/-- A list of DECODE_SETUP is its stage's turn of the orchestrator's loop. -/
theorem decodeList_bind_pushRecord {α : Type} {decoder : Parser α} {wrap : α → Record} {stage : Stage}
    (hdecoder : recordDecoder params p ch stage = wrap <$> decoder) (h : SetupHeader)
    (k : SetupHeader → Parser β) :
    (decodeList p stage (countWidth stage) decoder >>= fun rs => k ((rs.map wrap).foldl pushRecord h)) =
      setupList params p ch stage h >>= k := by
  rw [setupList, hdecoder, decodeList]
  simp only [bind_assoc]
  refine bind_congr fun _ => bind_congr fun raw => ?_
  exact times_bind_pushRecord decoder wrap stage (raw + 1) 0 h k

/-! ### What a list appends -/

theorem foldl_pushRecord_codebooks (h : SetupHeader) (rs : List Codebook) :
    (rs.map Record.codebook).foldl pushRecord h = { h with codebooks := h.codebooks ++ rs } := by
  induction rs generalizing h with
  | nil => simp
  | cons r rs ih => simp [ih, pushRecord]

theorem foldl_pushRecord_tdts (h : SetupHeader) (rs : List TimeDomainTransform) :
    (rs.map Record.tdt).foldl pushRecord h =
      { h with timeDomainTransforms := h.timeDomainTransforms ++ rs } := by
  induction rs generalizing h with
  | nil => simp
  | cons r rs ih => simp [ih, pushRecord]

theorem foldl_pushRecord_floors (h : SetupHeader) (rs : List Floor) :
    (rs.map Record.floor).foldl pushRecord h = { h with floors := h.floors ++ rs } := by
  induction rs generalizing h with
  | nil => simp
  | cons r rs ih => simp [ih, pushRecord]

theorem foldl_pushRecord_residues (h : SetupHeader) (rs : List Residue) :
    (rs.map Record.residue).foldl pushRecord h = { h with residues := h.residues ++ rs } := by
  induction rs generalizing h with
  | nil => simp
  | cons r rs ih => simp [ih, pushRecord]

theorem foldl_pushRecord_mappings (h : SetupHeader) (rs : List Mapping) :
    (rs.map Record.mapping).foldl pushRecord h = { h with mappings := h.mappings ++ rs } := by
  induction rs generalizing h with
  | nil => simp
  | cons r rs ih => simp [ih, pushRecord]

theorem foldl_pushRecord_modes (h : SetupHeader) (rs : List Mode) :
    (rs.map Record.mode).foldl pushRecord h = { h with modes := h.modes ++ rs } := by
  induction rs generalizing h with
  | nil => simp
  | cons r rs ih => simp [ih, pushRecord]

/-- A header is its records, appended in their order to the empty one. -/
theorem foldl_pushRecord_header (cs : List Codebook) (ts : List TimeDomainTransform) (fs : List Floor)
    (rs : List Residue) (ms : List Mapping) (ds : List Mode) :
    (ds.map Record.mode).foldl pushRecord ((ms.map Record.mapping).foldl pushRecord
      ((rs.map Record.residue).foldl pushRecord ((fs.map Record.floor).foldl pushRecord
        ((ts.map Record.tdt).foldl pushRecord ((cs.map Record.codebook).foldl pushRecord SetupHeader.empty))))) =
      ⟨cs, ts, fs, rs, ms, ds⟩ := by
  simp only [foldl_pushRecord_codebooks, foldl_pushRecord_tdts, foldl_pushRecord_floors, foldl_pushRecord_residues,
    foldl_pushRecord_mappings, foldl_pushRecord_modes]
  rfl

/-- DECODE_SETUP's decoder is the loop over the six stages, then the framing (R360, R365). -/
theorem decodeSetup_eq_setupLists :
    decodeSetup params p ch = (do
      let h ← setupLists params p ch setupStages SetupHeader.empty
      setupFraming p
      return h) := by
  simp only [setupStages, setupLists, bind_assoc]
  rw [← decodeList_bind_pushRecord (stage := .codebook) rfl, decodeSetup]
  refine bind_congr fun codebooks => ?_
  rw [← decodeList_bind_pushRecord (stage := .tdt) rfl]
  refine bind_congr fun tdts => ?_
  rw [← decodeList_bind_pushRecord (stage := .floor) rfl]
  refine bind_congr fun floors => ?_
  rw [← decodeList_bind_pushRecord (stage := .residue) rfl]
  refine bind_congr fun residues => ?_
  rw [← decodeList_bind_pushRecord (stage := .mapping) rfl]
  refine bind_congr fun mappings => ?_
  rw [← decodeList_bind_pushRecord (stage := .mode) rfl]
  refine bind_congr fun modes => ?_
  rw [pure_bind, foldl_pushRecord_header]

end

/-! ## Lists that a payload holds -/

/-- The decoder answers each record on its own fields. -/
abbrev RecordsGiven (p : Payload) (decoder : Parser Record) (rs : List Record) (records : List Fields) : Prop :=
  List.Forall₂ (fun r fs => p.Gives decoder fs (.ok r)) rs records

/-- A list of a legal header, as `SetupLists` writes it, with its records. -/
structure ListGiven (params : Params) (p : Payload) (ch : Nat) (rs : List Record)
    (list : Stage × Nat × List Fields) : Prop where
  width : list.2.1 = countWidth list.1
  pos : 1 ≤ rs.length
  records : RecordsGiven p (recordDecoder params p ch list.1) rs list.2.2

section
variable {params : Params} {p : Payload} {ch : Nat}

theorem eachFields_iff_forall₂ {α : Type} {rel : α → Fields → Prop} {rs : List α} {fss : List Fields} :
    EachFields rel rs fss ↔ List.Forall₂ rel rs fss := by
  induction rs generalizing fss with
  | nil => cases fss <;> simp [EachFields]
  | cons r rs ih => cases fss <;> simp [EachFields, ih]

/-- Records that are legal, each with the fields that the grammar writes for it. -/
theorem recordsGiven_of_eachFields {α : Type} {decoder : Parser α} {wrap : α → Record} {rel : α → Fields → Prop}
    {rs : List α} {records : List Fields} (hgives : ∀ r ∈ rs, ∀ fs, rel r fs → p.Gives decoder fs (.ok r))
    (h : EachFields rel rs records) : RecordsGiven p (wrap <$> decoder) (rs.map wrap) records := by
  rw [RecordsGiven, List.forall₂_map_left_iff]
  have hall := (List.forall₂_and_left _ _).mpr ⟨hgives, eachFields_iff_forall₂.mp h⟩
  exact hall.imp fun r fs ⟨hgives, hrel⟩ => (hgives fs hrel).map wrap

/-- Records whose fields are a function of the record. -/
theorem recordsGiven_map {α : Type} {decoder : Parser α} {wrap : α → Record} {fields : α → Fields} {rs : List α}
    (hgives : ∀ r ∈ rs, p.Gives decoder (fields r) (.ok r)) :
    RecordsGiven p (wrap <$> decoder) (rs.map wrap) (rs.map fields) := by
  rw [RecordsGiven, List.forall₂_map_left_iff, List.forall₂_map_right_iff, List.forall₂_same]
  exact fun r hr => (hgives r hr).map wrap

/-- Some records of a list are decoded, and the loop goes on after them. -/
theorem decodeRecords_of_given {decoder : Parser Record} {rs : List Record} {records : List Fields}
    (h : RecordsGiven p decoder rs records) (stage : Stage) (n i : Nat) (header : SetupHeader) {q : Nat}
    (ctx : ErrCtx) (hold : p.holds q records.flatten = true) :
    ∃ k, decodeRecords decoder stage (rs.length + n) i header ⟨q, ctx⟩ =
      decodeRecords decoder stage n (i + rs.length) (rs.foldl pushRecord header)
        ⟨q + Fields.bits records.flatten, k⟩ := by
  induction h generalizing i header q ctx with
  | nil => exact ⟨ctx, by simp⟩
  | @cons r fs rs records hgives _ ih =>
    rw [List.flatten_cons, Payload.holds_append, Bool.and_eq_true] at hold
    obtain ⟨hfs, hrest⟩ := hold
    obtain ⟨k, hk⟩ := ih (i + 1) (pushRecord header r) ⟨stage, false, i⟩ hrest
    refine ⟨k, ?_⟩
    rw [List.length_cons, Nat.add_right_comm, decodeRecords, Parser.bind_of_ok (setCtx_apply _ _ _ _),
      Parser.bind_of_ok (hgives q _ hfs), hk, List.flatten_cons, Fields.bits_append, List.foldl_cons, Nat.add_assoc q,
      Nat.add_right_comm i, Nat.add_assoc i]

theorem listsFields_cons (list : Stage × Nat × List Fields) (lists : List (Stage × Nat × List Fields)) :
    listsFields (list :: lists) = listFields list.2.1 list.2.2 ++ listsFields lists := rfl

theorem setupList_of_given {stage : Stage} {width : Nat} {records : List Fields} {rs : List Record}
    (h : ListGiven params p ch rs (stage, width, records)) (header : SetupHeader) {q : Nat} (ctx : ErrCtx)
    (hold : p.holds q (listFields width records) = true) :
    ∃ k, setupList params p ch stage header ⟨q, ctx⟩ =
      .ok (rs.foldl pushRecord header) ⟨q + Fields.bits (listFields width records), k⟩ := by
  obtain ⟨hwidth, hpos, hrecords⟩ := h
  obtain rfl : width = countWidth stage := hwidth
  have hlen : records.length - 1 + 1 = rs.length + 0 := by
    rw [← show rs.length = records.length from hrecords.length_eq, Nat.sub_add_cancel hpos, Nat.add_zero]
  obtain ⟨k, hk⟩ := decodeRecords_of_given hrecords stage 0 0 header ⟨stage, true, 0⟩ (Payload.holds_tail hold)
  refine ⟨k, ?_⟩
  rw [setupList, Parser.bind_of_ok (setCtx_apply _ _ _ _), Parser.bind_of_ok (read_of_holds hold), hlen, hk,
    listFields, Fields.bits_cons, ← Nat.add_assoc]
  rfl

/-- Whole lists are decoded, and the orchestrator goes on after them. -/
theorem setupLists_of_given {lists : List (Stage × Nat × List Fields)} {rss : List (List Record)}
    (h : List.Forall₂ (ListGiven params p ch) rss lists) (rest : List Stage) (header : SetupHeader) {q : Nat}
    (ctx : ErrCtx) (hold : p.holds q (listsFields lists) = true) :
    ∃ k, setupLists params p ch (lists.map Prod.fst ++ rest) header ⟨q, ctx⟩ =
      setupLists params p ch rest (rss.flatten.foldl pushRecord header)
        ⟨q + Fields.bits (listsFields lists), k⟩ := by
  induction h generalizing header q ctx with
  | nil => exact ⟨ctx, by simp [listsFields]⟩
  | @cons rs list rss lists hlist _ ih =>
    rw [listsFields_cons, Payload.holds_append, Bool.and_eq_true] at hold
    obtain ⟨hhere, hrest⟩ := hold
    obtain ⟨k, hk⟩ := setupList_of_given hlist header ctx hhere
    obtain ⟨k', hk'⟩ := ih (rs.foldl pushRecord header) k hrest
    refine ⟨k', ?_⟩
    rw [List.map_cons, List.cons_append, setupLists, Parser.bind_of_ok hk, hk', List.flatten_cons, List.foldl_append,
      listsFields_cons, Fields.bits_append, Nat.add_assoc]

end

/-! ## The lists of a legal header -/

section
variable {params : Params} {p : Payload} {h : SetupHeader} {ch : Nat} {lists : List (Stage × Nat × List Fields)}

/-- The orchestrator's view of a legal header's lists: its stages, and records that make up the header. -/
theorem SetupLists.given (hlists : SetupLists h lists) (hwf : h.wf) (hfit : ∀ c ∈ h.codebooks, CodebookFits params c)
    (hmux : ∀ m ∈ h.mappings, m.mux.length = ch) :
    lists.map Prod.fst = setupStages ∧ ∃ rss, List.Forall₂ (ListGiven params p ch) rss lists ∧
      rss.flatten.foldl pushRecord SetupHeader.empty = h := by
  obtain ⟨codebooks, residues, mappings, hcodebooks, hresidues, hmappings, rfl⟩ := hlists
  obtain ⟨⟨⟨hc, -⟩, hcwf⟩, ⟨⟨ht, -⟩, htwf⟩, ⟨⟨hf, -⟩, hfwf⟩, ⟨⟨hr, -⟩, hrwf⟩, ⟨⟨hm, -⟩, hmwf⟩, ⟨hd, -⟩, hdwf⟩ := hwf
  refine ⟨rfl, [h.codebooks.map .codebook, h.timeDomainTransforms.map .tdt, h.floors.map .floor,
    h.residues.map .residue, h.mappings.map .mapping, h.modes.map .mode], ?_, ?_⟩
  · refine .cons ⟨rfl, by simpa using hc, ?_⟩ <| .cons ⟨rfl, by simpa using ht, ?_⟩ <|
      .cons ⟨rfl, by simpa using hf, ?_⟩ <| .cons ⟨rfl, by simpa using hr, ?_⟩ <|
      .cons ⟨rfl, by simpa using hm, ?_⟩ <| .cons ⟨rfl, by simpa using hd, ?_⟩ .nil
    · refine recordsGiven_of_eachFields (fun c hc fs hfs => ?_) hcodebooks
      obtain ⟨hcounts, htree⟩ := hfit c hc
      exact gives_decodeCodebook_of_tree (x := .ok c.huffmanTree) (hcwf c hc) hcounts hfs htree
    · refine recordsGiven_map fun t ht => ?_
      obtain rfl : t = ⟨0⟩ := congrArg TimeDomainTransform.mk (htwf t ht)
      exact gives_decodeTdt
    · exact recordsGiven_map fun f hf => gives_decodeFloor (hfwf f hf)
    · exact recordsGiven_of_eachFields (fun r hr fs hfs => gives_decodeResidue (hrwf r hr) hfs) hresidues
    · refine recordsGiven_of_eachFields (fun m hm fs hfs => ?_) hmappings
      exact hmux m hm ▸ gives_decodeMapping (hmwf m hm) hfs
    · exact recordsGiven_map fun m hm => gives_decodeMode (hdwf m hm)
  · simpa only [List.flatten_cons, List.flatten_nil, List.append_nil, List.foldl_append] using
      foldl_pushRecord_header h.codebooks h.timeDomainTransforms h.floors h.residues h.mappings h.modes

/-- After the lists of a legal header the framing is read, and the header is the record. -/
theorem decodeSetup_of_lists (hlists : SetupLists h lists) (hwf : h.wf)
    (hfit : ∀ c ∈ h.codebooks, CodebookFits params c) (hmux : ∀ m ∈ h.mappings, m.mux.length = ch) (ctx : ErrCtx)
    (hold : p.holds 0 (listsFields lists) = true) :
    ∃ k, decodeSetup params p ch ⟨0, ctx⟩ =
      (setupFraming p >>= fun _ => pure h) ⟨Fields.bits (listsFields lists), k⟩ := by
  obtain ⟨hstages, rss, hgiven, hheader⟩ := hlists.given (p := p) hwf hfit hmux
  obtain ⟨k, hk⟩ := setupLists_of_given hgiven [] SetupHeader.empty ctx hold
  rw [List.append_nil, hstages, hheader, Nat.zero_add] at hk
  exact ⟨k, by rw [decodeSetup_eq_setupLists, Parser.bind_of_ok hk]⟩

end

/-! ## The framing (R365) -/

section
variable {p : Payload} {q : Nat}

theorem setupFraming_apply (ctx : ErrCtx) :
    setupFraming p ⟨q, ctx⟩ = (do
      let framing ← flag p
      if framing = false then raise .trailingDataOrMissingFramingBit 0 0
      trailingCheck p : Parser Unit) ⟨q, ⟨.framing, false, 0⟩⟩ := rfl

theorem trailingCheck_of_le {c : Cursor} (h : p.len ≤ (c.pos + 7) / 8) : trailingCheck p c = .ok () c := by
  simp [trailingCheck, Nat.sub_eq_zero_of_le h]

theorem trailingCheck_of_lt {c : Cursor} (h : (c.pos + 7) / 8 < p.len) :
    trailingCheck p c = .error ⟨.trailingDataOrMissingFramingBit, 1, p.len - (c.pos + 7) / 8⟩ c := by
  simp only [trailingCheck]
  rw [if_pos (by omega)]

/-- A framing bit of 1 leaves the trailing-data check. -/
theorem setupFraming_of_one (ctx : ErrCtx) (hold : p.holds q [(1, 1)] = true) :
    setupFraming p ⟨q, ctx⟩ = trailingCheck p ⟨q + 1, ⟨.framing, false, 0⟩⟩ := by
  rw [setupFraming_apply, Parser.bind_of_ok (flag_of_holds (b := true) hold)]
  rfl

theorem setupFraming_of_zero (ctx : ErrCtx) (hold : p.holds q [(1, 0)] = true) :
    setupFraming p ⟨q, ctx⟩ =
      .error ⟨.trailingDataOrMissingFramingBit, 0, 0⟩ ⟨q + 1, ⟨.framing, false, 0⟩⟩ := by
  rw [setupFraming_apply, Parser.bind_of_ok (flag_of_holds (b := false) hold)]
  rfl

theorem setupFraming_of_short (ctx : ErrCtx) (h : 8 * p.len < q + 1) :
    setupFraming p ⟨q, ctx⟩ = .error ⟨.prematureEndOfData, q, 1⟩ ⟨q, ⟨.framing, false, 0⟩⟩ := by
  rw [setupFraming_apply, Parser.bind_of_error]
  exact read_bind_of_short one_ne_zero h _

end

/-! ## The command -/

theorem exec_decodeSetup (s : State) : exec .decodeSetup s = .next (s.runDecode true 0 ⟨.codebook, true, 0⟩
    (Record.setup <$> decodeSetup s.params s.payload s.channels)) := rfl

section
variable {s : State} (hlen : s.inLen.toNat ≤ s.params.inCap) (hch : s.audioChannels ≠ 0)
include hlen hch

theorem exec_decodeSetup_of_ok {h : SetupHeader} {c : Cursor}
    (hok : decodeSetup s.params s.payload s.channels ⟨0, ⟨.codebook, true, 0⟩⟩ = .ok h c) :
    exec .decodeSetup s =
      .next (({ s with bitPos := Word.low c.pos, record := some (.setup h) }).afterSuccess (Word.low c.pos) 0) := by
  rw [exec_decodeSetup, State.runDecode_of_check (State.decodeCheck_none true hlen fun _ => hch), Parser.map_apply, hok]
  rfl

theorem exec_decodeSetup_of_error {e : Raise} {c : Cursor}
    (herr : decodeSetup s.params s.payload s.channels ⟨0, ⟨.codebook, true, 0⟩⟩ = .error e c) :
    exec .decodeSetup s =
      .next (({ s with bitPos := Word.low c.pos }).afterError
        e.kind.code (Word.low e.info) (Word.low e.aux) c.ctx.word) := by
  rw [exec_decodeSetup, State.runDecode_of_check (State.decodeCheck_none true hlen fun _ => hch), Parser.map_apply,
    herr]
  rfl

end

/-- Settles O35: the lists are decoded stage by stage into the header, and the framing bit's byte is the last. -/
theorem decodeSetupReadsGrammar : Obligations.DecodeSetupReadsGrammar := by
  rintro s h _ hlen hch hwf hfit hmux ⟨lists, hlists, rfl⟩ hold hend
  rw [Payload.holds_append, Bool.and_eq_true, Nat.zero_add] at hold
  obtain ⟨hold, hbit⟩ := hold
  obtain ⟨k, hk⟩ := decodeSetup_of_lists hlists hwf hfit hmux ⟨.codebook, true, 0⟩ hold
  have hbits : Fields.bits (listsFields lists ++ [(1, 1)]) = Fields.bits (listsFields lists) + 1 := by simp
  rw [hbits] at hend ⊢
  have hcheck : s.payload.len ≤ (Fields.bits (listsFields lists) + 1 + 7) / 8 := by
    show s.inLen.toNat ≤ _
    omega
  rw [Parser.bind_of_ok ((setupFraming_of_one k hbit).trans (trailingCheck_of_le hcheck))] at hk
  exact exec_decodeSetup_of_ok hlen hch hk

/-- Settles O36: the lists are decoded as for a whole header, and the framing's three errors come after them. -/
theorem decodeSetupFramingErrors : Obligations.DecodeSetupFramingErrors := by
  rintro s h _ body hlen hch hwf hfit hmux ⟨lists, hlists, rfl⟩ hbody
  obtain rfl : listsFields lists = body := (List.append_inj' hbody rfl).1
  have hlists := decodeSetup_of_lists (p := s.payload) hlists hwf hfit hmux ⟨.codebook, true, 0⟩
  have hbits : Fields.bits (listsFields lists ++ [(1, 1)]) = Fields.bits (listsFields lists) + 1 := by simp
  rw [hbits, Payload.holds_append, Payload.holds_append, Bool.and_eq_true, Bool.and_eq_true, Nat.zero_add]
  refine ⟨fun ⟨hold, hbit⟩ => ?_, fun ⟨hold, hbit⟩ hleft => ?_, fun hold hshort => ?_⟩ <;>
    obtain ⟨k, hk⟩ := hlists hold
  · rw [Parser.bind_of_error (setupFraming_of_zero k hbit)] at hk
    exact exec_decodeSetup_of_error hlen hch hk
  · have hcheck : (Fields.bits (listsFields lists) + 1 + 7) / 8 < s.payload.len := by
      show _ < s.inLen.toNat
      omega
    rw [Parser.bind_of_error ((setupFraming_of_one k hbit).trans (trailingCheck_of_lt hcheck))] at hk
    exact exec_decodeSetup_of_error hlen hch hk
  · rw [Parser.bind_of_error (setupFraming_of_short k (Nat.lt_succ_of_le hshort))] at hk
    exact exec_decodeSetup_of_error hlen hch hk

end Sys2Proof.Machine

/-! # What every decoder keeps (40_bitreader.md R151 to R153, 60_exceptions.md R401)

A decoder's answer and its end depend on where it starts, and not on the context, which it keeps. -/

namespace Sys2Proof.Machine

/-- From any position a decoder answers the same in every context and keeps the context; its cursor stays inside the
payload unless it has not moved, and it raises no IllegalCommand. -/
def Payload.Frames {α : Type} (p : Payload) (f : Parser α) : Prop :=
  ∀ q, ∃ (x : Except Raise α) (q' : Nat), (∀ ctx, f ⟨q, ctx⟩ = answerAt x ⟨q', ctx⟩) ∧ q' ≤ max q (8 * p.len) ∧
    ∀ e, x = .error e → e.kind ≠ .illegalCommand

namespace Payload.Frames
variable {α β : Type} {p : Payload} {f : Parser α} {g : α → Parser β}

theorem pure (a : α) : p.Frames (pure a) := fun q => ⟨.ok a, q, fun _ => rfl, Nat.le_max_left .., nofun⟩

theorem raise {kind : ErrKind} (info aux : Nat) (h : kind ≠ .illegalCommand) :
    p.Frames (Machine.raise kind info aux : Parser α) :=
  fun q => ⟨.error ⟨kind, info, aux⟩, q, fun _ => rfl, Nat.le_max_left .., by rintro _ ⟨⟩; exact h⟩

theorem read (n : Nat) : p.Frames (read p n) := by
  intro q
  by_cases hfit : n = 0 ∨ q + n ≤ 8 * p.len
  · refine ⟨.ok (p.field q n), q + n, fun ctx => ?_, by omega, nofun⟩
    obtain ⟨hr, -⟩ | ⟨-, hn, hlong⟩ := read_cases p n ⟨q, ctx⟩
    · exact hr
    · dsimp only at hlong
      omega
  · refine ⟨.error ⟨.prematureEndOfData, q, n⟩, q, fun ctx => read_of_short (by omega) ?_, Nat.le_max_left ..,
      by rintro _ ⟨⟩; nofun⟩
    dsimp only
    omega

theorem bind (hf : p.Frames f) (hg : ∀ a, p.Frames (g a)) : p.Frames (f >>= g) := by
  intro q
  obtain ⟨x, q', hx, hq', hkind⟩ := hf q
  cases x with
  | error e =>
    exact ⟨.error e, q', fun ctx => Parser.bind_of_error (hx ctx), hq', by rintro _ ⟨⟩; exact hkind e rfl⟩
  | ok a =>
    obtain ⟨y, q'', hy, hq'', hkind'⟩ := hg a q'
    exact ⟨y, q'', fun ctx => (Parser.bind_of_ok (hx ctx)).trans (hy ctx), by omega, hkind'⟩

/-- What stands after a raise is not reached. -/
theorem raise_bind {kind : ErrKind} (info aux : Nat) (h : kind ≠ .illegalCommand) (g : α → Parser β) :
    p.Frames (Machine.raise kind info aux >>= g) :=
  fun q => raise (α := β) info aux h q

theorem ite {P : Prop} [Decidable P] {f g : Parser α} (hf : p.Frames f) (hg : p.Frames g) :
    p.Frames (if P then f else g) := by
  split
  · exact hf
  · exact hg

/-- A check that raises, or else the rest. -/
theorem raiseElse {P : Prop} [Decidable P] {kind : ErrKind} {info aux : Nat} {g : Parser α}
    (h : kind ≠ .illegalCommand) (hg : p.Frames g) : p.Frames (if P then Machine.raise kind info aux else g) :=
  (raise info aux h).ite hg

/-- A check that raises before the rest. -/
theorem check {P : Prop} [Decidable P] {kind : ErrKind} {info aux : Nat} {f : α → Parser β} {g : Parser β}
    (h : kind ≠ .illegalCommand) (hg : p.Frames g) :
    p.Frames (if P then Machine.raise kind info aux >>= f else g) := (raise_bind info aux h f).ite hg

theorem map (hf : p.Frames f) (k : α → β) : p.Frames (k <$> f) := by
  rw [map_eq_pure_bind]
  exact hf.bind fun a => pure (k a)

theorem times {f : Nat → Parser α} (h : ∀ i, p.Frames (f i)) (n i : Nat) : p.Frames (times f n i) := by
  induction n generalizing i with
  | zero => exact pure []
  | succ n ih => exact (h i).bind fun _ => (ih (i + 1)).bind fun _ => pure _

theorem flag : p.Frames (flag p) := (read 1).bind fun _ => pure _

/-- The answer in one context is the answer in every other. -/
theorem error_congr (h : p.Frames f) {q : Nat} {ctx : ErrCtx} {e : Raise} {c : Cursor}
    (herr : f ⟨q, ctx⟩ = .error e c) (ctx' : ErrCtx) : f ⟨q, ctx'⟩ = .error e ⟨c.pos, ctx'⟩ := by
  obtain ⟨x, q', hx, -⟩ := h q
  rw [hx] at herr ⊢
  cases x <;> cases herr
  rfl

theorem kind_ne (h : p.Frames f) {c d : Cursor} {e : Raise} (herr : f c = .error e d) : e.kind ≠ .illegalCommand := by
  obtain ⟨x, q', hx, -, hkind⟩ := h c.pos
  cases x <;> cases (hx c.ctx).symm.trans herr
  exact hkind e rfl

end Payload.Frames

/-! ## The decoders -/

section
variable (p : Payload)

theorem frames_codebookSync : p.Frames (codebookSync p) := (Payload.Frames.read 24).bind fun _ =>
  .raiseElse nofun (.pure ())

theorem frames_lengthEntry (sparse : Bool) : p.Frames (lengthEntry p sparse) := by
  have hentry (used : Bool) : p.Frames
      (if used then do let raw ← read p 5; return some (raw + 1) else pure none : Parser (Option Nat)) :=
    ((Payload.Frames.read 5).bind fun _ => .pure _).ite (.pure none)
  exact (Payload.Frames.flag.bind hentry).ite ((Payload.Frames.pure true).bind hentry)

theorem frames_orderedField (entries entry length : Nat) : p.Frames (orderedField p entries entry length) :=
  .check nofun <| (Payload.Frames.read _).bind fun _ => .check nofun <| .pure _

theorem frames_orderedRuns (entries room entry : Nat) : p.Frames (orderedRuns p entries room entry) := by
  induction room generalizing entry with
  | zero => exact ((frames_orderedField p _ _ _).bind fun _ => .pure []).ite (.pure [])
  | succ room ih => exact ((frames_orderedField p _ _ _).bind fun _ => (ih _).bind fun _ => .pure _).ite (.pure [])

theorem frames_codebookSizes (params : Params) : p.Frames (codebookSizes params p) :=
  (Payload.Frames.read 16).bind fun _ => (Payload.Frames.read 24).bind fun _ => .check nofun <|
    Payload.Frames.flag.bind fun _ => .pure _

theorem frames_unorderedTable (dimensions entries : Nat) : p.Frames (unorderedTable p dimensions entries) :=
  Payload.Frames.flag.bind fun _ => (Payload.Frames.times (fun _ => frames_lengthEntry p _) _ _).bind fun _ => .pure _

theorem frames_codebookTable (params : Params) : p.Frames (codebookTable params p) :=
  (frames_codebookSizes p params).bind fun _ =>
    ((Payload.Frames.read 5).bind fun _ => (frames_orderedRuns p _ _ _).bind fun _ => .pure _).ite
      (frames_unorderedTable p _ _)

theorem frames_floatField : p.Frames (floatField p) := by
  refine (Payload.Frames.read 32).bind fun x => ?_
  cases float32Unpack (Word.low x) with
  | none => exact .raise _ _ nofun
  | some v => exact .pure v

theorem frames_lookupValues (lookupType entries dimensions : Nat) :
    p.Frames (lookupValues lookupType entries dimensions) := by
  unfold lookupValues
  refine .ite ?_ (.pure _)
  cases lookup1Values entries dimensions with
  | none => exact .raise _ _ nofun
  | some n => exact .pure n

theorem frames_vectorTable (params : Params) (lookupType entries dimensions : Nat) :
    p.Frames (vectorTable params p lookupType entries dimensions) :=
  (frames_floatField p).bind fun _ => (frames_floatField p).bind fun _ => (Payload.Frames.read 4).bind fun _ =>
    Payload.Frames.flag.bind fun _ => (frames_lookupValues p _ _ _).bind fun _ => .check nofun <|
    (Payload.Frames.times (fun _ => .read _) _ _).bind fun _ => .pure _

theorem frames_codebookLookup (params : Params) (entries dimensions : Nat) :
    p.Frames (codebookLookup params p entries dimensions) :=
  (Payload.Frames.read 4).bind fun _ => (Payload.Frames.pure _).ite <|
    ((frames_vectorTable p _ _ _ _).bind fun _ => .pure _).ite (.raise _ _ nofun)

theorem frames_buildTree (cap : Option Nat) (sym : Nat) (lengths : List (Option Nat)) (t : HuffTree) :
    p.Frames (buildTree cap sym lengths t) := by
  induction lengths generalizing sym t with
  | nil => exact .pure t
  | cons l rest ih =>
    cases l with
    | none => exact ih _ _
    | some l =>
      unfold buildTree
      split
      · exact .raise _ _ nofun
      · exact .raiseElse nofun (ih _ _)

theorem frames_codebookTree (params : Params) (h : CodebookHead) (lookupType : Nat) (t : Option VectorLookupTable) :
    p.Frames (codebookTree params h lookupType t) :=
  (frames_buildTree p _ _ _ _).bind fun _ => .pure _

theorem frames_decodeCodebook (params : Params) : p.Frames (decodeCodebook params p) :=
  (frames_codebookSync p).bind fun _ => (frames_codebookTable p _).bind fun _ => (frames_codebookLookup p _ _ _).bind
    fun _ => frames_codebookTree p _ _ _ _

theorem frames_decodeFloor0 : p.Frames (decodeFloor0 p) :=
  (Payload.Frames.read 8).bind fun _ => (Payload.Frames.read 16).bind fun _ => (Payload.Frames.read 16).bind fun _ =>
    (Payload.Frames.read 6).bind fun _ => (Payload.Frames.read 8).bind fun _ => (Payload.Frames.read 4).bind fun _ =>
    (Payload.Frames.times (fun _ => .read 8) _ _).bind fun _ => .pure _

theorem frames_decodeFloorClass : p.Frames (decodeFloorClass p) := by
  have hbooks (raw subclasses : Nat) (masterbooks : Option Nat) : p.Frames (do
      let books ← times (fun _ => read p 8) (2 ^ subclasses) 0
      return (⟨raw + 1, subclasses, masterbooks, books.map (fun (b : Nat) => (b : Int) - 1)⟩ : FloorClass)) :=
    (Payload.Frames.times (fun _ => .read 8) _ _).bind fun _ => .pure _
  exact (Payload.Frames.read 3).bind fun _ => (Payload.Frames.read 2).bind fun _ =>
    (((Payload.Frames.read 8).map some).bind fun _ => hbooks _ _ _).ite
      ((Payload.Frames.pure none).bind fun _ => hbooks _ _ _)

theorem frames_xValues (rangebits : Nat) (classes : List FloorClass) (classList : List Nat) :
    p.Frames (xValues p rangebits classes classList) := by
  induction classList with
  | nil => exact .pure []
  | cons c rest ih =>
    exact (Payload.Frames.times (fun _ => .read _) _ _).bind fun _ => ih.bind fun _ => .pure _

theorem frames_decodeFloor1 : p.Frames (decodeFloor1 p) :=
  (Payload.Frames.read 5).bind fun _ => (Payload.Frames.times (fun _ => .read 4) _ _).bind fun _ => .check nofun <|
    (Payload.Frames.times (fun _ => frames_decodeFloorClass p) _ _).bind fun _ => (Payload.Frames.read 2).bind fun _ =>
    (Payload.Frames.read 4).bind fun _ => (frames_xValues p _ _ _).bind fun _ => .check nofun <| .pure _

theorem frames_decodeFloor : p.Frames (decodeFloor p) :=
  (Payload.Frames.read 16).bind fun _ => ((frames_decodeFloor0 p).bind fun _ => .pure _).ite <|
    ((frames_decodeFloor1 p).bind fun _ => .pure _).ite (.raise _ _ nofun)

theorem frames_cascadeByte : p.Frames (cascadeByte p) :=
  (Payload.Frames.read 3).bind fun _ => Payload.Frames.flag.bind fun _ =>
    ((Payload.Frames.read 5).bind fun _ => .pure _).ite ((Payload.Frames.pure 0).bind fun _ => .pure _)

theorem frames_bookRow (cascade : Nat) : p.Frames (bookRow p cascade) :=
  .times (fun _ => ((Payload.Frames.read 8).map some).ite (.pure none)) 8 0

theorem frames_bookRows (cascade : List Nat) : p.Frames (bookRows p cascade) := by
  induction cascade with
  | nil => exact .pure []
  | cons c rest ih => exact (frames_bookRow p c).bind fun _ => ih.bind fun _ => .pure _

theorem frames_residueBody (residueType : Nat) : p.Frames (residueBody p residueType) :=
  (Payload.Frames.read 24).bind fun _ => (Payload.Frames.read 24).bind fun _ => (Payload.Frames.read 24).bind fun _ =>
    (Payload.Frames.read 6).bind fun _ => (Payload.Frames.read 8).bind fun _ =>
    (Payload.Frames.times (fun _ => frames_cascadeByte p) _ _).bind fun _ => (frames_bookRows p _).bind fun _ =>
    .pure _

theorem frames_decodeResidue : p.Frames (decodeResidue p) :=
  (Payload.Frames.read 16).bind fun _ => .check nofun <| frames_residueBody p _

theorem frames_mappingType : p.Frames (mappingType p) :=
  (Payload.Frames.read 16).bind fun _ => .raiseElse nofun (.pure ())

theorem frames_couplingPair (ch : Nat) : p.Frames (couplingPair p ch) :=
  (Payload.Frames.read _).bind fun _ => (Payload.Frames.read _).bind fun _ => .check nofun <| .pure _

theorem frames_mappingCoupling (ch : Nat) : p.Frames (mappingCoupling p ch) := by
  have hpairs (submaps : Nat) : p.Frames (do
      let coupled ← flag p
      if coupled then
        let raw ← read p 8
        let pairs ← times (fun _ => couplingPair p ch) (raw + 1) 0
        return (⟨submaps, raw + 1, pairs.map Prod.fst, pairs.map Prod.snd⟩ : MappingHead)
      else
        return ⟨submaps, 0, [], []⟩) :=
    Payload.Frames.flag.bind fun _ => ((Payload.Frames.read 8).bind fun _ =>
      (Payload.Frames.times (fun _ => frames_couplingPair p ch) _ _).bind fun _ => .pure _).ite (.pure _)
  exact Payload.Frames.flag.bind fun _ =>
    (((Payload.Frames.read 4).map _).bind hpairs).ite ((Payload.Frames.pure 1).bind hpairs)

theorem frames_mappingReserved : p.Frames (mappingReserved p) :=
  (Payload.Frames.read 2).bind fun _ => .raiseElse nofun (.pure ())

theorem frames_muxValue (submaps : Nat) : p.Frames (muxValue p submaps) :=
  (Payload.Frames.read 4).bind fun _ => .check nofun <| .pure _

theorem frames_submapRecord : p.Frames (submapRecord p) :=
  (Payload.Frames.read 8).bind fun _ => (Payload.Frames.read 8).bind fun _ => (Payload.Frames.read 8).bind fun _ =>
    .pure _

theorem frames_mappingMux (ch : Nat) (h : MappingHead) : p.Frames (mappingMux p ch h) := by
  have hsubmaps (mux : List Nat) : p.Frames (do
      let submapsVec ← times (fun _ => submapRecord p) h.submaps 0
      return (⟨0, h.submaps, h.couplingSteps, h.magnitude, h.angle, mux, submapsVec⟩ : Mapping)) :=
    (Payload.Frames.times (fun _ => frames_submapRecord p) _ _).bind fun _ => .pure _
  exact ((Payload.Frames.times (fun _ => frames_muxValue p _) _ _).bind hsubmaps).ite
    ((Payload.Frames.pure _).bind hsubmaps)

theorem frames_decodeMapping (ch : Nat) : p.Frames (decodeMapping p ch) :=
  (frames_mappingType p).bind fun _ => (frames_mappingCoupling p ch).bind fun _ => (frames_mappingReserved p).bind
    fun _ => frames_mappingMux p ch _

theorem frames_modeWindow : p.Frames (modeWindow p) :=
  (Payload.Frames.read 16).bind fun _ => .raiseElse nofun (.pure ())

theorem frames_modeTransform : p.Frames (modeTransform p) :=
  (Payload.Frames.read 16).bind fun _ => .raiseElse nofun (.pure ())

theorem frames_decodeMode : p.Frames (decodeMode p) :=
  Payload.Frames.flag.bind fun _ => (frames_modeWindow p).bind fun _ => (frames_modeTransform p).bind fun _ =>
    (Payload.Frames.read 8).bind fun _ => .pure _

theorem frames_decodeTdt : p.Frames (decodeTdt p) :=
  (Payload.Frames.read 16).bind fun _ => .check nofun <| .pure _

theorem frames_consume (n : Nat) : p.Frames (consume p n) := (Payload.Frames.read n).bind fun _ => .pure ()

theorem frames_trailingCheck : p.Frames (trailingCheck p) := by
  intro q
  by_cases h : p.len ≤ (q + 7) / 8
  · exact ⟨.ok (), q, fun ctx => trailingCheck_of_le h, Nat.le_max_left .., nofun⟩
  · exact ⟨.error ⟨_, 1, p.len - (q + 7) / 8⟩, q, fun ctx => trailingCheck_of_lt (Nat.lt_of_not_le h),
      Nat.le_max_left .., by rintro _ ⟨⟩; nofun⟩

theorem frames_recordDecoder (params : Params) (ch : Nat) (stage : Stage) :
    p.Frames (recordDecoder params p ch stage) := by
  cases stage with
  | codebook => exact (frames_decodeCodebook p params).map _
  | tdt => exact (frames_decodeTdt p).map _
  | floor => exact (frames_decodeFloor p).map _
  | residue => exact (frames_decodeResidue p).map _
  | mapping => exact (frames_decodeMapping p ch).map _
  | mode => exact (frames_decodeMode p).map _
  | outside | framing => exact .raise _ _ nofun

end

end Sys2Proof.Machine

/-! # The errors inside DECODE_SETUP (48_setup.md R363), and what an accepted header meets (R361, R362) -/

namespace Sys2Proof.Machine

/-! ## A list after lists that are whole -/

theorem Parser.bind_apply_congr {α β : Type} {f f' : Parser α} {c c' : Cursor} (h : f c = f' c')
    (g : α → Parser β) : (f >>= g) c = (f' >>= g) c' := by
  show EStateM.bind f g c = EStateM.bind f' g c'
  simp only [EStateM.bind, h]

section
variable {params : Params} {p : Payload} {h : SetupHeader} {ch : Nat}
  {lists done rest : List (Stage × Nat × List Fields)} {stage : Stage} {width : Nat} {records : List Fields}

/-- The lists before one of a legal header's are decoded, and the orchestrator stands at that one. -/
theorem decodeSetup_of_done (hlists : SetupLists h lists) (hwf : h.wf)
    (hfit : ∀ c ∈ h.codebooks, CodebookFits params c) (hmux : ∀ m ∈ h.mappings, m.mux.length = ch)
    (hsplit : lists = done ++ (stage, width, records) :: rest) (ctx : ErrCtx)
    (hold : p.holds 0 (listsFields done) = true) :
    (∃ rs, ListGiven params p ch rs (stage, width, records)) ∧
    ∃ k header, ∃ tail : SetupHeader → Parser SetupHeader,
      decodeSetup params p ch ⟨0, ctx⟩ =
        (setupList params p ch stage header >>= tail) ⟨Fields.bits (listsFields done), k⟩ := by
  obtain ⟨hstages, rss, hgiven, -⟩ := hlists.given (p := p) hwf hfit hmux
  rw [hsplit] at hgiven hstages
  have hdone := List.forall₂_take_append _ _ _ hgiven
  obtain ⟨rs, rss', hlist, -, -⟩ := List.forall₂_cons_right_iff.mp (List.forall₂_drop_append _ _ _ hgiven)
  refine ⟨⟨rs, hlist⟩, ?_⟩
  obtain ⟨k, hk⟩ := setupLists_of_given hdone (stage :: rest.map Prod.fst) SetupHeader.empty ctx hold
  rw [Nat.zero_add, ← List.map_cons (f := Prod.fst) (a := (stage, width, records)), ← List.map_append, hstages] at hk
  have hsetup := Parser.bind_apply_congr hk fun h => do setupFraming p; return h
  rw [← decodeSetup_eq_setupLists, List.map_cons, setupLists, bind_assoc] at hsetup
  exact ⟨k, _, _, hsetup⟩

/-- A count field that is cut short (R405(b)). -/
theorem setupList_of_short {q : Nat} (header : SetupHeader) (ctx : ErrCtx) (hshort : 8 * p.len < q + countWidth stage) :
    setupList params p ch stage header ⟨q, ctx⟩ =
      .error ⟨.prematureEndOfData, q, countWidth stage⟩ ⟨q, ⟨stage, true, 0⟩⟩ := by
  have hwidth : countWidth stage ≠ 0 := by
    unfold countWidth
    split <;> decide
  rw [setupList, Parser.bind_of_ok (setCtx_apply _ _ _ _)]
  exact read_bind_of_short hwidth hshort _

/-- A record that fails after records of its list that are legal ends the list at its own error. -/
theorem setupList_of_record_error {rs : List Record} {good : List Fields} {count q : Nat} {e : Raise} {c : Cursor}
    (hgood : RecordsGiven p (recordDecoder params p ch stage) rs good) (hle : good.length ≤ count)
    (header : SetupHeader) (ctx : ErrCtx) (hold : p.holds q ((countWidth stage, count) :: good.flatten) = true)
    (herr : recordDecoder params p ch stage
      ⟨q + countWidth stage + Fields.bits good.flatten, ⟨stage, false, good.length⟩⟩ = .error e c) :
    setupList params p ch stage header ⟨q, ctx⟩ = .error e c := by
  have hlen : rs.length = good.length := hgood.length_eq
  obtain ⟨more, rfl⟩ := Nat.exists_eq_add_of_le hle
  obtain ⟨k, hk⟩ := decodeRecords_of_given hgood stage (more + 1) 0 header ⟨stage, true, 0⟩ (Payload.holds_tail hold)
  rw [setupList, Parser.bind_of_ok (setCtx_apply _ _ _ _), Parser.bind_of_ok (read_of_holds hold), Nat.add_assoc,
    ← hlen, hk, Nat.zero_add, decodeRecords, Parser.bind_of_ok (setCtx_apply _ _ _ _), hlen]
  exact Parser.bind_of_error herr

end

/-! ## A record's own command -/

/-- The record commands, by their stage. -/
def recordEntries : List (Stage × Instr) :=
  [(.codebook, .decodeCodebook), (.tdt, .decodeTdt), (.floor, .decodeFloor), (.residue, .decodeResidue),
   (.mapping, .decodeMapping), (.mode, .decodeMode)]

/-- A record command runs its stage's decoder in its stage's context. -/
theorem exec_recordCommand {stage : Stage} {i : Instr} (hi : (stage, i) ∈ recordEntries) (s : State) :
    exec i s = .next (s.runDecode (decide (stage = .mapping)) s.bitPos.toNat ⟨stage, false, 0⟩
      (recordDecoder s.params s.payload s.channels stage)) := by
  simp only [recordEntries, List.mem_cons, Prod.mk.injEq, List.not_mem_nil, or_false] at hi
  obtain ⟨rfl, rfl⟩ | ⟨rfl, rfl⟩ | ⟨rfl, rfl⟩ | ⟨rfl, rfl⟩ | ⟨rfl, rfl⟩ | ⟨rfl, rfl⟩ := hi <;> rfl

/-- A record command that ends in an error although its start checks pass, by its decoder's error. -/
theorem exists_error_of_recordCommand {stage : Stage} {i : Instr} (hi : (stage, i) ∈ recordEntries) {s t : State}
    (hlen : s.inLen.toNat ≤ s.params.inCap) (hch : s.audioChannels ≠ 0) (hclear : s.err = false)
    (hexec : exec i s = .next t) (herr : t.err = true) :
    ∃ e c, recordDecoder s.params s.payload s.channels stage ⟨s.bitPos.toNat, ⟨stage, false, 0⟩⟩ = .error e c ∧
      t.bitPos = Word.low c.pos ∧ t.errCode = e.kind.code ∧ t.errInfo = Word.low e.info ∧
      t.errAux = Word.low e.aux := by
  rw [exec_recordCommand hi, State.runDecode_of_check (State.decodeCheck_none _ hlen fun _ => hch)] at hexec
  obtain rfl := Host.Outcome.next.inj hexec
  cases hdecode : recordDecoder s.params s.payload s.channels stage ⟨s.bitPos.toNat, ⟨stage, false, 0⟩⟩ with
  | ok r c =>
    rw [hdecode] at herr
    cases hclear.symm.trans herr
  | error e c => exact ⟨e, c, rfl, rfl, rfl, rfl, rfl⟩

/-- Fields with bits that a payload holds end inside it. -/
theorem Payload.end_le_of_holds {p : Payload} {q : Nat} {fs : Fields} (h : p.holds q fs = true) (hbits : fs.bits ≠ 0) :
    q + fs.bits ≤ 8 * p.len := by
  induction fs generalizing q with
  | nil => exact absurd rfl hbits
  | cons f rest ih =>
    obtain ⟨n, v⟩ := f
    have htail := ih (Payload.holds_tail h)
    simp only [Payload.holds, Bool.and_eq_true, Bool.or_eq_true, beq_iff_eq, decide_eq_true_eq] at h
    obtain ⟨⟨hfit, -⟩, -⟩ := h
    rw [Fields.bits_cons] at hbits ⊢
    omega

theorem ErrCtx.word_count (stage : Stage) : ErrCtx.word ⟨stage, true, 0⟩ = BitVec.ofNat 16 (stage.code + 16) := rfl

theorem ErrCtx.word_index (stage : Stage) (index : Nat) :
    ErrCtx.word ⟨stage, false, index⟩ = BitVec.ofNat 16 (stage.code + 256 * index) := by
  apply BitVec.eq_of_toNat_eq
  rw [ErrCtx.word_record, BitVec.toNat_ofNat, BitVec.toNat_ofNat]
  omega

/-- Settles O37: the lists before are decoded, and the list's count field is cut, or its records are decoded up to the
one that fails, which fails as in its own command but for the context. -/
theorem setupPropagatesFirstError : Obligations.SetupPropagatesFirstError := by
  intro s h lists done rest stage width records start hparams hlen hch hclear hwf hfit hmux hlists hsplit hstart
  subst hstart
  have hdone := decodeSetup_of_done (p := s.payload) (ch := s.channels) hlists hwf hfit hmux hsplit
    ⟨.codebook, true, 0⟩
  refine ⟨fun hold hshort => ?_, fun i count pos good more t hi hrecords hle hpos hold hexec herr => ?_⟩
  · obtain ⟨⟨rs, hwidth, -, -⟩, k, header, tail, hk⟩ := hdone hold
    obtain rfl : width = countWidth stage := hwidth
    rw [Parser.bind_of_error (setupList_of_short header k hshort)] at hk
    rw [exec_decodeSetup_of_error hlen hch hk, ErrCtx.word_count]
    rfl
  · rw [Payload.holds_append, Bool.and_eq_true, Nat.zero_add] at hold
    obtain ⟨hold, hlist⟩ := hold
    obtain ⟨⟨rs, hwidth, -, hrs⟩, k, header, tail, hk⟩ := hdone hold
    obtain rfl : width = countWidth stage := hwidth
    have hpos32 : pos < 2 ^ 32 := by
      have hend := Payload.end_le_of_holds hlist (by rw [Fields.bits_cons, countWidth]; split <;> omega)
      rw [Fields.bits_cons] at hend
      have : s.payload.len ≤ 2 ^ 28 := Nat.le_trans hlen hparams.1.2
      omega
    obtain ⟨e, c, hdecode, hbit, hcode, hinfo, haux⟩ :=
      exists_error_of_recordCommand (s := { s with bitPos := Word.low pos }) hi hlen hch hclear hexec herr
    have hstart : (Word.low pos).toNat = pos := Nat.mod_eq_of_lt hpos32
    rw [hstart] at hdecode
    have hindex := (frames_recordDecoder s.payload s.params s.channels stage).error_congr hdecode
      ⟨stage, false, good.length⟩
    have hrs : RecordsGiven s.payload (recordDecoder s.params s.payload s.channels stage) rs records := hrs
    rw [hrecords] at hrs
    rw [hpos] at hindex
    have hgood := List.forall₂_take_append _ _ _ hrs
    rw [Parser.bind_of_error (setupList_of_record_error hgood hle header k hlist hindex)] at hk
    rw [exec_decodeSetup_of_error hlen hch hk, hbit, hcode, hinfo, haux, ErrCtx.word_index]

end Sys2Proof.Machine

/-! # What an accepted header meets (48_setup.md R361, R362), and the framing tag (R365) -/

namespace Sys2Proof.Machine

/-! ## An accepted codebook is well formed (10_state.md R53, R54) -/

section
variable {params : Params} {p : Payload} {c d : Cursor}

theorem codebookTable_dimensions_lt {x : CodebookHead} (h : codebookTable params p c = .ok x d) :
    x.dimensions < 2 ^ 16 := by
  have hsizes {y : Nat × Nat × Bool} {d : Cursor} (h : codebookSizes params p c = .ok y d) : y.1 < 2 ^ 16 := by
    simp only [codebookSizes, Parser.bind_eq_ok] at h
    obtain ⟨dimensions, c₁, hdim, entries, c₂, -, h⟩ := h
    obtain ⟨-, h⟩ := ite_raise_bind_eq_ok h
    obtain ⟨ordered, c₃, -, ⟨⟩⟩ := Parser.bind_eq_ok.mp h
    exact (read_eq_ok hdim).1
  rw [codebookTable, Parser.bind_eq_ok] at h
  obtain ⟨⟨dimensions, entries, ordered⟩, c₁, hread, h⟩ := h
  cases ordered with
  | true =>
    simp only [if_true, Parser.bind_eq_ok] at h
    obtain ⟨raw, c₂, -, lengths, c₃, -, ⟨⟩⟩ := h
    exact hsizes hread
  | false =>
    simp only [Bool.false_eq_true, if_false, unorderedTable, Parser.bind_eq_ok] at h
    obtain ⟨sparse, c₂, -, lengths, c₃, -, ⟨⟩⟩ := h
    exact hsizes hread

/-- The count that R238 gives is the cardinality of R54. -/
theorem lookupValues_eq_ok {lookupType entries dimensions count : Nat} (hentries : entries < 2 ^ 24)
    (h : lookupValues lookupType entries dimensions c = .ok count d) {v : VectorLookupTable}
    (hv : v.lookupValues = count) : v.countOk lookupType entries dimensions := by
  subst hv
  unfold lookupValues at h
  unfold VectorLookupTable.countOk
  split at h
  next htype =>
    rw [if_pos htype]
    split
    next hd =>
      subst hd
      by_cases he : entries = 0
      · simp only [lookup1Values, he, if_true] at h
        exact ⟨he, (EStateM.Result.ok.inj h).1.symm⟩
      · simp only [lookup1Values, he, if_true, if_false] at h
        cases h
    next hd =>
      obtain ⟨r, -, hr, hle, hmax⟩ := lookup1Values_eq_some hd (show entries < 2 ^ 32 by omega)
      rw [hr] at h
      obtain ⟨rfl, -⟩ := EStateM.Result.ok.inj h
      exact ⟨hle, Nat.lt_of_not_le fun hover => Nat.not_succ_le_self _ (hmax _ hover)⟩
  next htype =>
    rw [if_neg htype]
    exact (EStateM.Result.ok.inj h).1.symm

theorem vectorTable_wf {lookupType entries dimensions : Nat} (hentries : entries < 2 ^ 24) {v : VectorLookupTable}
    (h : vectorTable params p lookupType entries dimensions c = .ok v d) :
    v.wf ∧ v.countOk lookupType entries dimensions := by
  simp only [vectorTable, Parser.bind_eq_ok] at h
  obtain ⟨_, c₁, -, _, c₂, -, raw, c₃, hraw, _, c₄, -, count, c₅, hcount, h⟩ := h
  obtain ⟨-, h⟩ := ite_raise_bind_eq_ok h
  obtain ⟨multiplicands, c₆, htimes, ⟨⟩⟩ := Parser.bind_eq_ok.mp h
  exact ⟨⟨⟨Nat.le_add_left .., (read_eq_ok hraw).1⟩, times_length htimes, times_read_lt htimes⟩,
    lookupValues_eq_ok hentries hcount rfl⟩

theorem codebookLookup_wf {entries dimensions : Nat} (hentries : entries < 2 ^ 24)
    {x : Nat × Option VectorLookupTable} (h : codebookLookup params p entries dimensions c = .ok x d) :
    x.1 ≤ 2 ∧ (x.2 = none ↔ x.1 = 0) ∧ ∀ v ∈ x.2, v.wf ∧ v.countOk x.1 entries dimensions := by
  rw [codebookLookup, Parser.bind_eq_ok] at h
  obtain ⟨lookupType, c₁, -, h⟩ := h
  split at h
  next =>
    cases h
    exact ⟨Nat.zero_le 2, by simp, nofun⟩
  next h0 =>
    split at h
    next h12 =>
      obtain ⟨v, c₂, hv, ⟨⟩⟩ := Parser.bind_eq_ok.mp h
      refine ⟨show lookupType ≤ 2 by omega, by simpa using h0, ?_⟩
      rintro _ ⟨⟩
      exact vectorTable_wf hentries hv
    next => cases h

theorem decodeCodebook_wf {b : Codebook} (h : decodeCodebook params p c = .ok b d) : b.wf := by
  simp only [decodeCodebook, Parser.bind_eq_ok] at h
  obtain ⟨_, c₁, -, x, c₂, htable, lookup, c₃, hlookup, h⟩ := h
  obtain ⟨tree, rfl, hbuilt, -⟩ := codebookTree_eq_ok h
  obtain ⟨hentries, hlength, hlengths, hsparse, hused, -⟩ := codebookTable_eq_ok htable
  obtain ⟨htype, hnone, hv⟩ := codebookLookup_wf hentries hlookup
  refine ⟨codebookTable_dimensions_lt htable, hentries, hsparse, hlength, fun l hl => ⟨fun hordered hl' => ?_, ?_⟩,
    htype, hnone, hv, hbuilt.wf⟩
  · exact hused hordered (hl' ▸ hl)
  · exact hlengths l hl

end

/-! ## An accepted header -/

section
variable {params : Params} {p : Payload} {c d : Cursor}

theorem decodeTdt_eq_ok {r : TimeDomainTransform} (h : decodeTdt p c = .ok r d) : r.wf := by
  rw [decodeTdt, Parser.bind_eq_ok] at h
  obtain ⟨reserved, c₁, -, h⟩ := h
  obtain ⟨-, ⟨⟩⟩ := ite_raise_bind_eq_ok h
  rfl

theorem decodeMode_eq_ok {r : Mode} (h : decodeMode p c = .ok r d) : r.wf := by
  simp only [decodeMode, Parser.bind_eq_ok] at h
  obtain ⟨_, c₁, -, _, c₂, -, _, c₃, -, mapping, c₄, hmapping, ⟨⟩⟩ := h
  exact ⟨rfl, rfl, (read_eq_ok hmapping).1⟩

/-- A list has as many records as its count field says (R361), each one accepted by its decoder. -/
theorem decodeList_eq_ok {α : Type} {P : α → Prop} {stage : Stage} {width : Nat} {decoder : Parser α} {rs : List α}
    (hP : ∀ c r d, decoder c = .ok r d → P r) (h : decodeList p stage width decoder c = .ok rs d) :
    (1 ≤ rs.length ∧ rs.length ≤ 2 ^ width) ∧ ∀ r ∈ rs, P r := by
  simp only [decodeList, Parser.bind_eq_ok] at h
  obtain ⟨_, c₁, -, raw, c₂, hraw, h⟩ := h
  have hlen := times_length h
  have hraw := (read_eq_ok hraw).1
  refine ⟨by omega, times_forall (fun i c r d hr => ?_) h⟩
  obtain ⟨_, c', -, hr⟩ := Parser.bind_eq_ok.mp hr
  exact hP c' r d hr

theorem decodeSetup_eq_ok {ch : Nat} {h : SetupHeader} (hok : decodeSetup params p ch c = .ok h d) :
    h.wf ∧ ∀ m ∈ h.mappings, m.mux.length = ch := by
  simp only [decodeSetup, Parser.bind_eq_ok] at hok
  obtain ⟨codebooks, c₁, hcodebooks, tdts, c₂, htdts, floors, c₃, hfloors, residues, c₄, hresidues, mappings, c₅,
    hmappings, modes, c₆, hmodes, _, c₇, -, ⟨⟩⟩ := hok
  obtain ⟨hmany, hmapping⟩ := decodeList_eq_ok (fun _ _ _ => decodeMapping_eq_ok) hmappings
  exact ⟨⟨decodeList_eq_ok (fun _ _ _ => decodeCodebook_wf) hcodebooks,
    decodeList_eq_ok (fun _ _ _ => decodeTdt_eq_ok) htdts, decodeList_eq_ok (fun _ _ _ => decodeFloor_eq_ok) hfloors,
    decodeList_eq_ok (fun _ _ _ => decodeResidue_eq_ok) hresidues, ⟨hmany, fun m hm => (hmapping m hm).1⟩,
    decodeList_eq_ok (fun _ _ _ => decodeMode_eq_ok) hmodes⟩, fun m hm => (hmapping m hm).2⟩

end

/-- Settles O38: the header is one that the decoder has accepted, and each of its lists is. -/
theorem acceptedSetupIsWellFormed : Obligations.AcceptedSetupIsWellFormed := by
  intro s t r hnone hexec ht
  rw [exec_decodeSetup] at hexec
  obtain rfl := Host.Outcome.next.inj hexec
  obtain ⟨h, c, hdecode, rfl⟩ := State.runDecode_record hnone ht
  exact ⟨h, rfl, decodeSetup_eq_ok hdecode⟩

/-! ## The framing tag (R365) -/

theorem State.applyField_of_emit {s : State} {f : Parser Progress} {r : Record} {c : Cursor}
    (h : f ⟨s.bitPos.toNat, s.parse.ctx⟩ = .ok (.emit r) c) :
    s.applyField f = s.endDecode s.parse.start (.ok r c) := by
  rw [State.applyField, h]

theorem State.applyField_of_error {s : State} {f : Parser Progress} {e : Raise} {c : Cursor}
    (h : f ⟨s.bitPos.toNat, s.parse.ctx⟩ = .error e c) :
    s.applyField f = s.endDecode s.parse.start (.error e c) := by
  rw [State.applyField, h]

theorem exec_setupFraming (s : State) : exec .setupFraming s = .next (s.applyField (do
    consume s.payload Field.setupFraming.width
    trailingCheck s.payload
    return .emit (.setup s.parse.header))) := rfl

/-- Settles O42: the bit is consumed, and the trailing-data check emits the header or raises. -/
theorem framingTagEndsSetup : Obligations.FramingTagEndsSetup := by
  rintro s _ hold rfl
  have hconsume : consume s.payload Field.setupFraming.width ⟨s.bitPos.toNat, s.parse.ctx⟩ =
      .ok () ⟨s.bitPos.toNat + 1, s.parse.ctx⟩ := gives_consume 1 1 _ _ hold
  rw [exec_setupFraming]
  refine ⟨fun h0 => ?_, fun h0 => ?_⟩
  · have hcheck := trailingCheck_of_le (p := s.payload) (c := ⟨s.bitPos.toNat + 1, s.parse.ctx⟩)
      (Nat.le_of_sub_eq_zero h0)
    rw [State.applyField_of_emit (by rw [Parser.bind_of_ok hconsume, Parser.bind_of_ok hcheck]; rfl)]
    rfl
  · have hcheck := trailingCheck_of_lt (p := s.payload) (c := ⟨s.bitPos.toNat + 1, s.parse.ctx⟩)
      (Nat.lt_of_sub_ne_zero h0)
    rw [State.applyField_of_error (by rw [Parser.bind_of_ok hconsume, Parser.bind_of_error hcheck])]
    rfl

end Sys2Proof.Machine

/-! # Exceptions (60_exceptions.md)

The start checks, what an error leaves alone, and what every step keeps of the error registers and HOST_FAULT. -/

namespace Sys2Proof.Machine

/-! ## The start checks (R411) -/

section
variable {s : State}

theorem runDecode_of_long (h : s.params.inCap < s.inLen.toNat) (mapped : Bool) (start : Nat) (ctx : ErrCtx)
    (decoder : Parser Record) : s.runDecode mapped start ctx decoder = s.afterError 15 8 s.inLen 0 := by
  have hcheck : s.decodeCheck mapped = some (8, s.inLen.toNat) := if_pos h
  simp [State.runDecode, hcheck, State.violation_eq]

theorem runDecode_of_no_channels (hlen : s.inLen.toNat ≤ s.params.inCap) (h : s.audioChannels = 0) (start : Nat)
    (ctx : ErrCtx) (decoder : Parser Record) : s.runDecode true start ctx decoder = s.afterError 15 7 0 0 := by
  have hcheck : s.decodeCheck true = some (7, 0) := by
    rw [State.decodeCheck, if_neg (Nat.not_lt.mpr hlen)]
    simp [State.channels, h]
  simp [State.runDecode, hcheck, State.violation_eq]

/-- A violation whose operand is a register. -/
theorem violation_toNat (reason : Nat) (w : Word) :
    s.violation reason w.toNat = s.afterError 15 (Word.low reason) w 0 := by
  simp [State.violation_eq]

theorem neighbor_of_long (h : s.params.vecCap < s.vecLen.toNat) (search : (Nat → Nat) → Nat → Option Nat)
    (which : Nat) : s.neighbor search which = s.afterError 15 9 s.vecLen 0 := by
  rw [State.neighbor, if_pos h]
  exact violation_toNat 9 s.vecLen

theorem neighbor_of_beyond (hlen : s.vecLen.toNat ≤ s.params.vecCap) (h : s.vecLen.toNat ≤ s.op0.toNat)
    (search : (Nat → Nat) → Nat → Option Nat) (which : Nat) :
    s.neighbor search which = s.afterError 15 3 s.op0 0 := by
  rw [State.neighbor, if_neg (Nat.not_lt.mpr hlen), if_pos h]
  exact violation_toNat 3 s.op0

/-- A decode command is its checks, then its decoder. -/
theorem exec_decodeCommand {i : Instr} (hi : i ∈ decodeCommands) :
    ∃ start ctx decoder, exec i s =
      .next (s.runDecode (decide (i ∈ [Instr.decodeMapping, .decodeSetup])) start ctx decoder) := by
  simp only [decodeCommands, recordCommands, List.cons_append, List.nil_append, List.mem_cons, List.not_mem_nil,
    or_false] at hi
  obtain rfl | rfl | rfl | rfl | rfl | rfl | rfl := hi <;> exact ⟨_, _, _, rfl⟩

end

/-- Settles O11: each command's checks are tried in their order, and the first that fails is the completion. -/
theorem startChecksRaise : Obligations.StartChecksRaise := by
  intro s
  refine ⟨fun h => ?_, fun hlen h => ?_, fun i hi => ?_, fun h => ?_, fun hlen h => ?_, fun h => ?_, fun i hi h => ?_,
    fun i hi hlen h => ?_⟩
  · exact congrArg _ ((if_pos h).trans (violation_toNat 8 s.inLen))
  · exact congrArg _ ((if_neg (Nat.not_lt.mpr hlen)).trans ((if_pos h).trans (violation_toNat 1 s.op0)))
  · simp only [List.mem_cons, List.not_mem_nil, or_false] at hi
    obtain rfl | rfl := hi <;>
      exact ⟨fun h => congrArg _ (neighbor_of_long h _ _), fun hlen h => congrArg _ (neighbor_of_beyond hlen h _ _)⟩
  · exact congrArg _ ((if_pos h).trans (violation_toNat 10 s.lineLen))
  · exact congrArg _ ((if_neg (Nat.not_lt.mpr hlen)).trans (if_neg (mt (lineInBounds_iff s).mp h)))
  · exact congrArg _ ((if_pos (by omega)).trans (violation_toNat 2 s.op0))
  · obtain ⟨start, ctx, decoder, hexec⟩ := exec_decodeCommand (s := s) hi
    rw [hexec, runDecode_of_long h]
  · obtain ⟨start, ctx, decoder, hexec⟩ := exec_decodeCommand (s := s) (i := i) (by
      simp only [List.mem_cons, List.not_mem_nil, or_false] at hi
      obtain rfl | rfl := hi <;> decide)
    rw [hexec, decide_eq_true hi, runDecode_of_no_channels hlen h]

/-! ## What an error leaves alone (R403, R404) -/

/-- A parser whose errors are among the codes 1 to 16 of R401. -/
def Parser.KnownErrors {α : Type} (f : Parser α) : Prop := ∀ c e d, f c = .error e d → e.kind ≠ .illegalCommand

theorem Payload.Frames.knownErrors {α : Type} {p : Payload} {f : Parser α} (h : p.Frames f) : f.KnownErrors :=
  fun _ _ _ herr => h.kind_ne herr

namespace Parser.KnownErrors
variable {α β : Type} {f : Parser α}

theorem pure (a : α) : Parser.KnownErrors (pure a : Parser α) := fun _ _ _ h => nomatch h

theorem bind {g : α → Parser β} (hf : f.KnownErrors) (hg : ∀ a, (g a).KnownErrors) : (f >>= g).KnownErrors := by
  intro c e d h
  obtain h | ⟨a, c', -, h⟩ := Parser.bind_eq_error.mp h
  · exact hf c e d h
  · exact hg a c' e d h

theorem setCtx (stage : Stage) (inCount : Bool) (index : Nat) :
    Parser.KnownErrors (Machine.setCtx stage inCount index) := fun _ _ _ h => nomatch h

theorem map (hf : f.KnownErrors) (k : α → β) : Parser.KnownErrors (k <$> f) := by
  rw [map_eq_pure_bind]
  exact hf.bind fun a => pure (k a)

theorem decodeRecords {decoder : Parser Record} (hdecoder : decoder.KnownErrors) (stage : Stage) (n i : Nat)
    (h : SetupHeader) : (decodeRecords decoder stage n i h).KnownErrors := by
  induction n generalizing i h with
  | zero => exact pure h
  | succ n ih => exact (setCtx _ _ _).bind fun _ => hdecoder.bind fun r => ih (i + 1) (pushRecord h r)

theorem setupLists (params : Params) (p : Payload) (ch : Nat) (stages : List Stage) (h : SetupHeader) :
    (setupLists params p ch stages h).KnownErrors := by
  induction stages generalizing h with
  | nil => exact pure h
  | cons stage rest ih =>
    have hlist : (setupList params p ch stage h).KnownErrors := (setCtx _ _ _).bind fun _ =>
      (Payload.Frames.read (p := p) _).knownErrors.bind fun _ =>
        (frames_recordDecoder p params ch stage).knownErrors.decodeRecords stage _ _ _
    exact hlist.bind ih

theorem decodeSetup (params : Params) (p : Payload) (ch : Nat) : (decodeSetup params p ch).KnownErrors := by
  have hframing : (setupFraming p).KnownErrors := (setCtx _ _ _).bind fun _ =>
    (Payload.Frames.flag.bind fun _ => by exact .check nofun (frames_trailingCheck p)).knownErrors
  rw [decodeSetup_eq_setupLists]
  exact (setupLists params p ch _ _).bind fun h => hframing.bind fun _ => pure h

end Parser.KnownErrors

/-- If a state has ERR, it is the error completion of the other, with at most BIT_POS moved (R403, R404). -/
def FailureSpares (i : Instr) (s t : State) : Prop :=
  t.err = true → ∃ (pos : Word) (code : Byte) (info aux : Word) (ctx : BitVec 16),
    t = ({ s with bitPos := pos }).afterError code info aux ctx ∧ 1 ≤ code.toNat ∧ code.toNat ≤ 16 ∧
      (∀ op, encode i = (.command, op) → op < 0x10 → pos = s.bitPos ∧ ctx = 0)

theorem ErrKind.code_le {k : ErrKind} (h : k ≠ .illegalCommand) : k.code.toNat ≤ 16 := by
  cases k with
  | illegalCommand => exact absurd rfl h
  | _ => decide

theorem readsRecord_of_encode {i : Instr} (h : (encode i).1 = .command → 0x10 ≤ (encode i).2) : ReadsRecord i := by
  intro op henc
  rw [henc] at h
  exact h rfl

namespace FailureSpares
variable {i : Instr} {s t : State}

theorem of_success (h : t.err = false) : FailureSpares i s t := fun herr => nomatch h.symm.trans herr

/-- An error with the cursor where it was and no context. -/
theorem raiseError {e : Raise} (h : e.kind ≠ .illegalCommand) : FailureSpares i s (s.raiseError e .none) :=
  fun _ => ⟨s.bitPos, e.kind.code, Word.low e.info, Word.low e.aux, 0, rfl, e.kind.code_range.1, ErrKind.code_le h,
    fun _ _ _ => ⟨rfl, rfl⟩⟩

theorem violation (reason aux : Nat) : FailureSpares i s (s.violation reason aux) := raiseError nofun

section
variable (hi : ReadsRecord i) (hs : s.err = false)
include hi hs

theorem endDecode (start : Nat) {x : EStateM.Result Raise Cursor Record}
    (hx : ∀ e c, x = .error e c → e.kind ≠ .illegalCommand) : FailureSpares i s (s.endDecode start x) := by
  cases x with
  | ok r c => exact of_success hs
  | error e c =>
    exact fun _ => ⟨Word.low c.pos, e.kind.code, Word.low e.info, Word.low e.aux, c.ctx.word, rfl, e.kind.code_range.1,
      ErrKind.code_le (hx e c rfl), fun op henc hop => absurd (hi op henc) (Nat.not_le.mpr hop)⟩

theorem runDecode {decoder : Parser Record} (hdecoder : decoder.KnownErrors) (mapped : Bool) (start : Nat)
    (ctx : ErrCtx) : FailureSpares i s (s.runDecode mapped start ctx decoder) := by
  unfold State.runDecode
  split
  · exact violation _ _
  · exact endDecode hi hs start fun e c => hdecoder _ e c

theorem applyField {f : Parser Progress} (hf : f.KnownErrors) : FailureSpares i s (s.applyField f) := by
  unfold State.applyField
  split
  · exact of_success hs
  · exact endDecode hi hs _ nofun
  next e c herr =>
    exact endDecode hi hs _ (by rintro _ _ ⟨⟩; exact hf _ e c herr)

theorem passTag (f : Field) (v : ParseVars) : FailureSpares i s (s.passTag f v) :=
  applyField hi hs ((frames_consume s.payload _).knownErrors.bind fun _ => .pure _)

theorem lookupTag (lookupType : Nat) {table : Parser (Option VectorLookupTable)} (htable : table.KnownErrors) :
    FailureSpares i s (s.lookupTag lookupType table) :=
  applyField hi hs ((frames_consume s.payload _).knownErrors.bind fun _ => htable.bind fun _ => .pure _)

theorem recordTag (f : Field) {rest : Parser Record} (hrest : rest.KnownErrors) :
    FailureSpares i s (s.recordTag f rest) :=
  applyField hi hs ((frames_consume s.payload _).knownErrors.bind fun _ => hrest.bind fun _ => .pure _)

end

section
variable (hs : s.err = false)
include hs

theorem readBits : ∃ t, exec .readBits s = .next t ∧ FailureSpares .readBits s t := by
  refine ⟨_, rfl, ?_⟩
  split
  · exact violation _ _
  split
  · exact violation _ _
  obtain ⟨hread, -⟩ | ⟨hread, -⟩ := read_cases s.payload s.op0.toNat ⟨s.bitPos.toNat, .none⟩
  · rw [hread]
    exact of_success hs
  · rw [hread]
    exact raiseError nofun

theorem neighbor (search : (Nat → Nat) → Nat → Option Nat) (which : Nat) :
    FailureSpares i s (s.neighbor search which) := by
  unfold State.neighbor
  split
  · exact violation _ _
  split
  · exact violation _ _
  split
  · exact of_success hs
  · exact raiseError nofun

theorem renderPoint : ∃ t, exec .renderPoint s = .next t ∧ FailureSpares .renderPoint s t := by
  refine ⟨_, rfl, ?_⟩
  split
  · exact violation _ _
  split
  · exact of_success hs
  · exact violation _ _

theorem renderLine : ∃ t, exec .renderLine s = .next t ∧ FailureSpares .renderLine s t := by
  refine ⟨_, rfl, ?_⟩
  split
  · exact violation _ _
  split
  · exact of_success hs
  · exact violation _ _

theorem huffAddNode : ∃ t, exec .huffAddNode s = .next t ∧ FailureSpares .huffAddNode s t := by
  refine ⟨_, rfl, ?_⟩
  split
  · exact violation _ _
  split
  · exact raiseError nofun
  split
  · exact raiseError nofun
  · exact of_success hs

/-- Every instruction spares what R404 names. -/
theorem exec (i : Instr) : ∃ t, exec i s = .next t ∧ FailureSpares i s t := by
  have hi (h : (encode i).1 = .command → 0x10 ≤ (encode i).2) : ReadsRecord i := readsRecord_of_encode h
  have hvector (lookupType : Nat) := ((frames_vectorTable s.payload s.params lookupType s.parse.book.entries
    s.parse.book.dimensions).map some).knownErrors
  have hresidue (residueType : Nat) := ((frames_residueBody s.payload residueType).map Record.residue).knownErrors
  cases i with
  | readBits => exact readBits hs
  | ilog | huffClear => exact ⟨_, rfl, of_success hs⟩
  | float32Unpack | lookup1Values =>
    refine ⟨_, rfl, ?_⟩
    split
    · exact of_success hs
    · exact raiseError nofun
  | lowNeighbor | highNeighbor => exact ⟨_, rfl, neighbor hs _ _⟩
  | renderPoint => exact renderPoint hs
  | renderLine => exact renderLine hs
  | huffAddNode => exact huffAddNode hs
  | decodeCodebook =>
    exact ⟨_, rfl, runDecode (hi (by decide)) hs ((frames_decodeCodebook s.payload _).map _).knownErrors _ _ _⟩
  | decodeFloor =>
    exact ⟨_, rfl, runDecode (hi (by decide)) hs ((frames_decodeFloor s.payload).map _).knownErrors _ _ _⟩
  | decodeResidue =>
    exact ⟨_, rfl, runDecode (hi (by decide)) hs ((frames_decodeResidue s.payload).map _).knownErrors _ _ _⟩
  | decodeMapping =>
    exact ⟨_, rfl, runDecode (hi (by decide)) hs ((frames_decodeMapping s.payload _).map _).knownErrors _ _ _⟩
  | decodeMode =>
    exact ⟨_, rfl, runDecode (hi (by decide)) hs ((frames_decodeMode s.payload).map _).knownErrors _ _ _⟩
  | decodeTdt =>
    exact ⟨_, rfl, runDecode (hi (by decide)) hs ((frames_decodeTdt s.payload).map _).knownErrors _ _ _⟩
  | decodeSetup =>
    exact ⟨_, rfl, runDecode (hi (by decide)) hs ((Parser.KnownErrors.decodeSetup s.params s.payload _).map _) _ _ _⟩
  | codebookSync | mappingType0 | mappingReserved | modeWindowType0 | modeTransformType0 =>
    exact ⟨_, rfl, passTag (hi (by decide)) hs _ _⟩
  | codebookLookupNone => exact ⟨_, rfl, lookupTag (hi (by decide)) hs 0 (.pure none)⟩
  | codebookLookupType1 => exact ⟨_, rfl, lookupTag (hi (by decide)) hs 1 (hvector 1)⟩
  | codebookLookupType2 => exact ⟨_, rfl, lookupTag (hi (by decide)) hs 2 (hvector 2)⟩
  | floorType0 =>
    exact ⟨_, rfl, recordTag (hi (by decide)) hs _ ((frames_decodeFloor0 s.payload).map _).knownErrors⟩
  | floorType1 =>
    exact ⟨_, rfl, recordTag (hi (by decide)) hs _ ((frames_decodeFloor1 s.payload).map _).knownErrors⟩
  | residueType0 => exact ⟨_, rfl, recordTag (hi (by decide)) hs _ (hresidue 0)⟩
  | residueType1 => exact ⟨_, rfl, recordTag (hi (by decide)) hs _ (hresidue 1)⟩
  | residueType2 => exact ⟨_, rfl, recordTag (hi (by decide)) hs _ (hresidue 2)⟩
  | tdtReserved => exact ⟨_, rfl, recordTag (hi (by decide)) hs _ (.pure _)⟩
  | setupFraming =>
    exact ⟨_, rfl, applyField (hi (by decide)) hs ((frames_consume s.payload _).knownErrors.bind fun _ =>
      (frames_trailingCheck s.payload).knownErrors.bind fun _ => .pure _)⟩

end

end FailureSpares

/-- Settles O46: an instruction's error is one of its checks', its search's or its decoder's. -/
theorem failureLeavesEverythingElse : Obligations.FailureLeavesEverythingElse := by
  intro i s t hs hexec herr
  obtain ⟨u, hu, h⟩ := FailureSpares.exec hs i
  obtain rfl : u = t := Host.Outcome.next.inj (hu.symm.trans hexec)
  exact h herr

/-! ## The error registers (R401, R410) -/

namespace State.errorsAgree
variable {s t : State}

/-- Only the phase and the error registers matter. -/
theorem congr (h : s.errorsAgree) (hphase : t.phase = .busy → s.phase = .busy) (herr : t.err = s.err)
    (hcode : t.errCode = s.errCode) (hinfo : t.errInfo = s.errInfo) (haux : t.errAux = s.errAux)
    (hctx : t.errCtx = s.errCtx) : t.errorsAgree := by
  obtain ⟨hbusy, hclear, hset⟩ := h
  unfold State.errorsAgree
  rw [herr, hcode, hinfo, haux, hctx]
  exact ⟨fun hb => hbusy (hphase hb), hclear, hset⟩

theorem of_clear (herr : t.err = false) (hcode : t.errCode = 0) (hinfo : t.errInfo = 0) (haux : t.errAux = 0)
    (hctx : t.errCtx = 0) : t.errorsAgree :=
  ⟨fun _ => herr, fun _ => ⟨hcode, hinfo, haux, hctx⟩, fun h => nomatch herr.symm.trans h⟩

theorem engineEnds (h : s.errorsAgree) (he : EngineEnds s t) : t.errorsAgree := by
  cases he with
  | completed | drewLine | clearedTree | addedNode => exact h.congr nofun rfl rfl rfl rfl rfl
  | raised _ kind => exact ⟨nofun, nofun, fun _ => kind.code_range⟩
  | movedOn => exact h.congr id rfl rfl rfl rfl rfl

theorem writeCtrl (h : s.errorsAgree) (v : Word) : (s.writeCtrl v).errorsAgree := by
  unfold State.writeCtrl
  split
  · rw [softReset_eq]
    exact of_clear rfl rfl rfl rfl rfl
  · exact h

theorem writeLoc (h : s.errorsAgree) (v : Word) (l : Loc) : (s.writeLoc v l).errorsAgree := by
  unfold State.writeLoc
  split
  · exact of_clear rfl rfl rfl rfl rfl
  · exact h.writeCtrl v
  next r _ _ => cases r <;> exact h
  all_goals exact h

theorem hostWrite (h : s.errorsAgree) (width : Width) (offset : Nat) (v : Word) :
    (s.hostWrite width offset v).errorsAgree := by
  unfold State.hostWrite
  split
  · exact h
  split
  · split
    · exact h.writeCtrl v
    · exact h
  · exact h.writeLoc v _

theorem hostRead (h : s.errorsAgree) (width : Width) (offset : Nat) : (s.hostRead width offset).errorsAgree := by
  unfold State.hostRead
  split
  · exact h
  split
  · exact h
  · exact h

theorem hostEvent (h : s.errorsAgree) (e : HostEvent) : (s.hostEvent e).errorsAgree := by
  unfold State.hostEvent
  split
  · split
    · exact h.hostWrite _ _ _
    · exact h
  · split
    · exact h.hostRead _ _
    · exact h
  · exact of_clear rfl rfl rfl rfl rfl

end State.errorsAgree

/-- Settles O60: a step waits, lets a host event land, or moves the engine, and each keeps the agreement. -/
theorem stepKeepsErrorRegisters : Obligations.StepKeepsErrorRegisters := by
  intro s t h hstep
  obtain ⟨-, -, rfl⟩ | ⟨e, rest, -, -, rfl⟩ | ⟨-, bus, he⟩ := step_cases hstep
  · exact h
  · exact State.errorsAgree.hostEvent (s := { s with bus := rest }) h e.event
  · exact State.errorsAgree.engineEnds (s := { s with bus := bus }) h he

/-! ## HOST_FAULT (R413) -/

section
variable {s t : State}

theorem EngineEnds.hostFault_eq (h : EngineEnds s t) : t.hostFault = s.hostFault := by
  cases h <;> rfl

theorem writeCtrl_hostFault (v : Word) : (s.writeCtrl v).hostFault = s.hostFault := by
  unfold State.writeCtrl
  split
  · rw [softReset_eq]
  · rfl

theorem writeLoc_hostFault (v : Word) (l : Loc) : (s.writeLoc v l).hostFault = s.hostFault := by
  unfold State.writeLoc
  split
  · rfl
  · exact writeCtrl_hostFault v
  next r _ _ => cases r <;> rfl
  all_goals rfl

variable (h : s.hostFault = true)
include h

theorem hostWrite_hostFault (width : Width) (offset : Nat) (v : Word) :
    (s.hostWrite width offset v).hostFault = true := by
  unfold State.hostWrite
  split
  · rfl
  split
  · split
    · rw [writeCtrl_hostFault, h]
    · rfl
  · rw [writeLoc_hostFault, h]

theorem hostRead_hostFault (width : Width) (offset : Nat) : (s.hostRead width offset).hostFault = true := by
  unfold State.hostRead
  split
  · rfl
  split
  · exact h
  · exact h

/-- No host event clears HOST_FAULT but a hardware reset. -/
theorem hostEvent_hostFault {e : HostEvent} (he : e ≠ .hardReset) : (s.hostEvent e).hostFault = true := by
  unfold State.hostEvent
  split
  · split
    · exact hostWrite_hostFault h _ _ _
    · exact h
  · split
    · exact hostRead_hostFault h _ _
    · exact h
  · exact absurd rfl he

end

/-- Settles O57: the engine leaves HOST_FAULT alone, and an event that lands is no hardware reset. -/
theorem hostFaultIsSticky : Obligations.HostFaultIsSticky := by
  intro s t h hstep hreset
  obtain ⟨-, -, rfl⟩ | ⟨e, rest, hb, hlands, rfl⟩ | ⟨-, bus, he⟩ := step_cases hstep
  · exact h
  · refine hostEvent_hostFault (s := { s with bus := rest }) h fun he => ?_
    obtain ⟨hbusy, hwait⟩ := hreset e (by simp [hb]) he
    obtain hidle | hnow := hlands
    · cases hbusy.symm.trans hidle
    · exact hwait hnow
  · exact he.hostFault_eq.trans h

/-! ## Reset and steps (70_reset_and_hazards.md) -/

/-- Settles O56: a reset that lands is the next turn, and its state is the reset column. -/
theorem hardResetGivesResetColumn : Obligations.HardResetGivesResetColumn := by
  intro s e rest hlands hb
  refine ⟨({ s with bus := rest }).hardReset, step_of_done (nextTurn_event hb hlands), ?_⟩
  refine ⟨rfl, rfl, rfl, rfl, rfl, rfl, rfl, ?_⟩
  refine ⟨rfl, rfl, rfl, rfl, rfl, rfl, rfl, rfl, rfl, rfl, rfl, rfl, rfl, rfl, rfl, rfl, rfl, rfl, rfl, rfl, ?_⟩
  exact fun a => rfl

/-- Settles O4: no event is due, so the turn is the engine's, and it runs what the opcode or the field decodes to. -/
theorem stepRunsDecodedInstruction : Obligations.StepRunsDecodedInstruction := by
  intro s i hp hquiet
  refine ⟨fun hpt hop => ?_, fun f v hpt henc hold => ?_⟩
  · exact step_of_run ((nextTurn_engine hp hquiet).trans (engineTurn_command hpt hop))
  · have hdec : decodeField f v = .ok i := (decodeFieldIffEncode f v i).mpr henc
    exact step_of_run ((nextTurn_engine hp hquiet).trans (engineTurn_tag hpt hold hdec))

/-- Settles O7: a turn goes to a state, or runs an instruction, which answers one. -/
theorem stepNeverStops : Obligations.StepNeverStops := by
  intro s
  cases hturn : s.nextTurn with
  | done t => exact ⟨t, step_of_done hturn⟩
  | run i t =>
    obtain ⟨u, hu⟩ := exec_next i t
    exact ⟨u, (step_of_run hturn).trans hu⟩

/-- Settles O59: the parameters are legal, and every other part of the invariants is about an empty or a zero field. -/
theorem resetMeetsInvariant : Obligations.ResetMeetsInvariant := by
  have hparams : Params.default.wf := by decide
  exact ⟨⟨hparams, List.Pairwise.nil, wf_emptyTree, by decide, fun _ => rfl⟩, .of_clear rfl rfl rfl rfl rfl⟩

end Sys2Proof.Machine

/-! # Records that are cut short (60_exceptions.md R405, R406)

Each decoder on the fields that the grammar writes, where the payload ends inside one of them. -/

namespace Sys2Proof.Machine

/-- Wherever the payload ends inside one of the fields and holds those before it, the decoder raises PrematureEndOfData
at that field. -/
def Payload.Cuts {α : Type} (p : Payload) (f : Parser α) (fs : Fields) : Prop :=
  ∀ q ctx before n v after, fs = before ++ (n, v) :: after → n ≠ 0 → p.holds q before = true →
    8 * p.len < q + before.bits + n →
      f ⟨q, ctx⟩ = .error ⟨.prematureEndOfData, q + before.bits, n⟩ ⟨q + before.bits, ctx⟩

namespace Payload.Cuts
variable {α β : Type} {p : Payload} {f : Parser α} {g : α → Parser β} {fs gs : Fields}

theorem nil (f : Parser α) : p.Cuts f [] := fun _ _ _ _ _ _ h => by simp at h

theorem read (n v : Nat) : p.Cuts (read p n) [(n, v)] := by
  intro q ctx before m w after h hm _ hshort
  obtain ⟨rfl, hcons⟩ : before = [] ∧ [(n, v)] = (m, w) :: after := by
    cases before with
    | nil => exact ⟨rfl, h⟩
    | cons _ before => simp at h
  obtain ⟨⟨rfl, rfl⟩, -⟩ := by simpa using hcons
  exact read_of_short hm hshort

/-- A decoder that is cut ends what it stands in. -/
theorem bind_left (hf : p.Cuts f fs) : p.Cuts (f >>= g) fs :=
  fun q ctx before n v after h hn hold hshort => Parser.bind_of_error (hf q ctx before n v after h hn hold hshort)

theorem map (hf : p.Cuts f fs) (k : α → β) : p.Cuts (k <$> f) fs := by
  rw [map_eq_pure_bind]
  exact hf.bind_left

/-- Of two decoders in sequence the first is cut, or the second after the first's fields. -/
theorem bind {a : α} (hf : p.Cuts f fs) (hgives : p.Gives f fs (.ok a)) (hg : p.Cuts (g a) gs) :
    p.Cuts (f >>= g) (fs ++ gs) := by
  intro q ctx before n v after h hn hold hshort
  have hsecond {rest : Fields} (hbefore : before = fs ++ rest) (hgs : gs = rest ++ (n, v) :: after) :
      (f >>= g) ⟨q, ctx⟩ = .error ⟨.prematureEndOfData, q + before.bits, n⟩ ⟨q + before.bits, ctx⟩ := by
    subst hbefore
    rw [Payload.holds_append, Bool.and_eq_true] at hold
    obtain ⟨hfs, hrest⟩ := hold
    rw [Fields.bits_append, ← Nat.add_assoc] at hshort ⊢
    rw [Parser.bind_of_ok (hgives q ctx hfs)]
    exact hg _ _ rest n v after hgs hn hrest hshort
  obtain ⟨rest, hbefore, hgs⟩ | ⟨_ | ⟨x, rest⟩, hfs, hcons⟩ := List.append_eq_append_iff.mp h
  · exact hsecond hbefore hgs
  · exact hsecond (rest := []) (by simpa using hfs.symm) hcons.symm
  · obtain ⟨rfl, rfl⟩ := List.cons.inj hcons
    exact hf.bind_left q ctx before n v rest hfs hn hold hshort

theorem then_of_nil {a : α} (hf : p.Gives f [] (.ok a)) (hg : p.Cuts (g a) fs) : p.Cuts (f >>= g) fs :=
  bind (nil f) hf hg

theorem read_then {g : Nat → Parser β} {n v : Nat} (hg : p.Cuts (g v) fs) :
    p.Cuts (Machine.read p n >>= g) ((n, v) :: fs) := bind (read n v) (.read n v) hg

theorem flag (v : Nat) : p.Cuts (Machine.flag p) [(1, v)] := (read 1 v).bind_left

theorem flag_then {g : Bool → Parser β} {b : Bool} (hg : p.Cuts (g b) fs) :
    p.Cuts (Machine.flag p >>= g) ((1, b.toNat) :: fs) := bind (flag b.toNat) (.flag b) hg

/-- `Payload.Gives.times_map` for a list that is cut. -/
theorem times_map {γ : Type} {f : Nat → Parser α} {fields : γ → Fields} {k : γ → α} {cs : List γ} {i : Nat}
    (hgives : ∀ j (hj : j < cs.length), p.Gives (f (i + j)) (fields cs[j]) (.ok (k cs[j])))
    (hcut : ∀ j (hj : j < cs.length), p.Cuts (f (i + j)) (fields cs[j])) :
    p.Cuts (Machine.times f cs.length i) (cs.flatMap fields) := by
  induction cs generalizing i with
  | nil => exact nil _
  | cons c cs ih =>
    have hrest : p.Cuts (Machine.times f cs.length (i + 1)) (cs.flatMap fields) := by
      refine ih (fun j hj => ?_) fun j hj => ?_ <;> rw [Nat.add_right_comm, Nat.add_assoc]
      · exact hgives (j + 1) (Nat.succ_lt_succ hj)
      · exact hcut (j + 1) (Nat.succ_lt_succ hj)
    exact (hcut 0 (Nat.zero_lt_succ _)).bind (hgives 0 (Nat.zero_lt_succ _)) hrest.bind_left

/-- `Payload.Gives.times` for a list that is cut. -/
theorem times {f : Nat → Parser α} {fields : α → Fields} {as : List α}
    (hgives : ∀ i, ∀ a ∈ as, p.Gives (f i) (fields a) (.ok a)) (hcut : ∀ i, ∀ a ∈ as, p.Cuts (f i) (fields a))
    (i : Nat) : p.Cuts (Machine.times f as.length i) (as.flatMap fields) :=
  times_map (k := id) (fun _ _ => hgives _ _ (List.getElem_mem _)) fun _ _ => hcut _ _ (List.getElem_mem _)

/-- Values that are each one field of the same width. -/
theorem values {n : Nat} (width : Nat) {vs : List Nat} (hlen : vs.length = n) :
    p.Cuts (Machine.times (fun _ => Machine.read p width) n 0) (vs.map fun v => (width, v)) := by
  rw [← hlen, List.map_eq_flatMap]
  exact times (fun _ v _ => .read width v) (fun _ v _ => read width v) 0

/-- A value that is read in one of two ways before the rest. -/
theorem ite_bind {P : Prop} [Decidable P] {f f' : Parser α} (h : p.Cuts ((if P then f else f') >>= g) fs) :
    p.Cuts (if P then f >>= g else f' >>= g) fs := by
  rwa [apply_ite (· >>= g)] at h

end Payload.Cuts

section
variable {p : Payload}

/-! ## A codebook (R108) -/

theorem cuts_codebookSync : p.Cuts (codebookSync p) [(24, 0x564342)] := .read_then (.nil _)

theorem cuts_lengthEntry {sparse : Bool} {l : Option Nat} (hdense : sparse = false → l ≠ none) :
    p.Cuts (lengthEntry p sparse) (entryFields sparse l) := by
  cases l with
  | none =>
    obtain rfl : sparse = true := by simpa using hdense
    exact .flag_then (b := false) (.nil _)
  | some n =>
    have hread : p.Cuts (do let raw ← read p 5; return some (raw + 1) : Parser (Option Nat)) [(5, n - 1)] :=
      .read_then (.nil _)
    cases sparse with
    | false => exact hread
    | true => exact .flag_then (b := true) hread

theorem cuts_unorderedTable {sparse : Bool} {lengths : List (Option Nat)} (hl : ∀ l ∈ lengths, ∀ n ∈ l, 1 ≤ n)
    (hdense : sparse = false → ∀ l ∈ lengths, l ≠ none) (dimensions : Nat) :
    p.Cuts (unorderedTable p dimensions lengths.length)
      ((1, sparse.toNat) :: lengths.flatMap (entryFields sparse)) :=
  .flag_then <| Payload.Cuts.bind_left <| .times (fun _ l h => gives_lengthEntry (hl l h) (hdense · l h))
    (fun _ l h => cuts_lengthEntry (hdense · l h)) 0

theorem cuts_orderedField {entries e l n : Nat} (hl : l ≤ 32) :
    p.Cuts (orderedField p entries e l) [(ilog (entries - e), n)] := by
  unfold orderedField
  rw [if_neg (Nat.not_lt.mpr hl)]
  exact .read_then (.nil _)

theorem cuts_orderedRuns {entries e l : Nat} {runs : List Nat} (h : runsOk entries e l runs = true) :
    p.Cuts (orderedRuns p entries (33 - l) e) (runFields entries e runs) := by
  induction runs generalizing e l with
  | nil => exact .nil _
  | cons n runs ih =>
    simp only [runsOk, Bool.and_eq_true, decide_eq_true_eq] at h
    obtain ⟨⟨⟨he, hl⟩, hn⟩, hrest⟩ := h
    rw [orderedRuns_of_lt he hl]
    exact (cuts_orderedField hl).bind (gives_orderedField hl hn) (ih hrest).bind_left

theorem cuts_codebookSizes {params : Params} {entries : Nat} (hcap : overCap entries params.entryCap = false)
    (dimensions : Nat) (ordered : Bool) :
    p.Cuts (codebookSizes params p) [(16, dimensions), (24, entries), (1, ordered.toNat)] :=
  .read_then <| .read_then <| by
    rw [if_neg (by simp [hcap])]
    exact .flag_then (.nil _)

theorem cuts_codebookTable {params : Params} {c : Codebook} {table : Fields} (hwf : c.wf)
    (hcap : overCap c.entries params.entryCap = false) (htable : TableFields c table) :
    p.Cuts (codebookTable params p)
      ([(16, c.dimensions), (24, c.entries), (1, c.ordered.toNat)] ++ table) := by
  obtain ⟨-, -, hsparse, hentries, hlengths, -⟩ := hwf
  refine (cuts_codebookSizes hcap _ _).bind (gives_codebookSizes hcap _ _) ?_
  unfold TableFields at htable
  cases hs : c.sparse with
  | none =>
    rw [hs] at htable
    obtain ⟨first, runs, hfirst, hruns, hl, rfl⟩ := htable
    rw [hsparse.mp hs]
    refine .read_then ?_
    rw [Nat.sub_add_cancel hfirst]
    exact (cuts_orderedRuns hruns).bind_left
  | some sparse =>
    rw [hs] at htable
    obtain ⟨rfl, hdense⟩ := htable
    have hordered : c.ordered = false := by simpa [hs] using hsparse
    rw [hordered, ← hentries]
    exact cuts_unorderedTable (fun l h n hn => ((hlengths l h).2 n hn).1) hdense c.dimensions

theorem cuts_floatField (x : Nat) : p.Cuts (floatField p) [(32, x)] := .read_then (.nil _)

theorem cuts_vectorTable {params : Params} {lookupType entries dimensions : Nat} {v : VectorLookupTable} {fs : Fields}
    (hv : v.wf) (hcount : v.countOk lookupType entries dimensions) (hentries : entries < 2 ^ 24)
    (hcap : overCap v.lookupValues params.multCap = false) (hfs : VectorFields v fs) :
    p.Cuts (vectorTable params p lookupType entries dimensions) fs := by
  obtain ⟨minimum, delta, hmin, hdelta, rfl⟩ := hfs
  obtain ⟨⟨hbits, -⟩, hlen, -⟩ := hv
  refine (cuts_floatField _).bind (gives_floatField (by simpa using hmin)) <|
    (cuts_floatField _).bind (gives_floatField (by simpa using hdelta)) <| .read_then <| .flag_then <|
    .then_of_nil (gives_lookupValues hcount hentries) ?_
  rw [if_neg (by simp [hcap]), Nat.sub_add_cancel hbits]
  exact (Payload.Cuts.values _ hlen).bind_left

theorem cuts_codebookLookup {params : Params} {c : Codebook} {fs : Fields} (hwf : c.wf)
    (hfit : CodebookCountsFit params c) (hfs : LookupFields c fs) :
    p.Cuts (codebookLookup params p c.entries c.dimensions) fs := by
  obtain ⟨-, hentries, -, -, -, htype, hnone, htable, -⟩ := hwf
  obtain ⟨-, hcap⟩ := hfit
  unfold LookupFields at hfs
  cases hv : c.vectorLookupTable with
  | none =>
    rw [hv] at hfs
    rw [hfs]
    exact .read_then (.nil _)
  | some v =>
    rw [hv] at hfs
    obtain ⟨rest, hrest, rfl⟩ := hfs
    have hpos : c.lookupType ≠ 0 := mt hnone.mpr (by simp [hv])
    obtain ⟨hvwf, hcount⟩ := htable v hv
    refine .read_then ?_
    rw [if_neg hpos, if_pos (by omega)]
    exact (cuts_vectorTable hvwf hcount hentries (hcap v hv) hrest).bind_left

theorem cuts_decodeCodebook {params : Params} {c : Codebook} {fs : Fields} (hwf : c.wf)
    (hfit : CodebookCountsFit params c) (hfs : CodebookFields c fs) : p.Cuts (decodeCodebook params p) fs := by
  obtain ⟨table, lookup, htable, hlookup, rfl⟩ := hfs
  obtain ⟨hcap, -⟩ := id hfit
  have hlookup : p.Cuts (codebookLookup params p c.entries c.dimensions >>= fun r =>
    codebookTree params (codebookHead c) r.1 r.2) lookup := (cuts_codebookLookup hwf hfit hlookup).bind_left
  exact cuts_codebookSync.bind gives_codebookSync <|
    (cuts_codebookTable hwf hcap htable).bind (gives_codebookTable hwf hcap htable) hlookup

/-! ## A floor (R109, R110) -/

theorem cuts_decodeFloor0 {f : Floor0} (hwf : f.wf) : p.Cuts (decodeFloor0 p) (floor0Fields f).tail := by
  obtain ⟨order, rate, barkMapSize, amplitudeBits, amplitudeOffset, numberOfBooks, bookList⟩ := f
  obtain ⟨-, -, -, -, -, ⟨hpos, -⟩, hlen, -⟩ := hwf
  obtain ⟨raw, rfl⟩ := Nat.exists_eq_add_of_le' hpos
  exact .read_then <| .read_then <| .read_then <| .read_then <| .read_then <| .read_then <|
    (Payload.Cuts.values 8 hlen).bind_left

theorem cuts_masterbooks_then {β : Type} {g : Option Nat → Parser β} {fs : Fields} {subclasses : Nat}
    {masterbooks : Option Nat} (hnone : masterbooks = none ↔ subclasses = 0) (hg : p.Cuts (g masterbooks) fs) :
    p.Cuts (if subclasses > 0 then some <$> read p 8 >>= g else pure none >>= g)
      ((masterbooks.toList.map fun b => (8, b)) ++ fs) := by
  cases masterbooks with
  | none =>
    rw [if_neg (by simp [← hnone])]
    exact .then_of_nil (.pure none) hg
  | some b =>
    rw [if_pos (Nat.pos_of_ne_zero (mt hnone.mpr nofun))]
    exact ((Payload.Cuts.read 8 b).map some).bind ((Payload.Gives.read 8 b).map some) hg

theorem cuts_decodeFloorClass {c : FloorClass} (hwf : c.wf) : p.Cuts (decodeFloorClass p) (classFields c) := by
  obtain ⟨dimensions, subclasses, masterbooks, subclassBooks⟩ := c
  obtain ⟨-, -, hnone, -, hlen, -⟩ := hwf
  have hbytes : (subclassBooks.map fun b => (b + 1).toNat).length = 2 ^ subclasses := List.length_map _ |>.trans hlen
  have hbooks := Payload.Cuts.values (p := p) 8 hbytes
  rw [List.map_map] at hbooks
  exact .read_then <| .read_then <| cuts_masterbooks_then hnone hbooks.bind_left

theorem cuts_xValues {rangebits : Nat} {classes : List FloorClass} {classList xs : List Nat}
    (hlen : xs.length = (classList.map (classDimensions classes)).sum) :
    p.Cuts (xValues p rangebits classes classList) (xs.map fun x => (rangebits, x)) := by
  induction classList generalizing xs with
  | nil =>
    obtain rfl := List.eq_nil_of_length_eq_zero hlen
    exact .nil _
  | cons c rest ih =>
    rw [List.map_cons, List.sum_cons] at hlen
    obtain ⟨here, after, rfl, hhere⟩ : ∃ here after, xs = here ++ after ∧ here.length = classDimensions classes c :=
      ⟨_, _, (xs.take_append_drop _).symm, List.length_take_of_le (by omega)⟩
    rw [List.length_append, hhere, Nat.add_left_cancel_iff] at hlen
    rw [List.map_append]
    exact (Payload.Cuts.values rangebits hhere).bind (gives_values rangebits hhere) (ih hlen).bind_left

theorem cuts_decodeFloor1 {f : Floor1} (hwf : f.wf) : p.Cuts (decodeFloor1 p) (floor1Fields f).tail := by
  obtain ⟨partitions, classList, maximumClass, classes, multiplier, rangebits, xList⟩ := f
  obtain ⟨hpos, hlist, hmax, hclasses, hclass, hmul, hx⟩ := Floor1Written.of_wf hwf
  dsimp only at *
  have htable := Payload.Gives.times (p := p) (fun _ c hc => gives_decodeFloorClass (hclass c hc)) 0
  have hcut := Payload.Cuts.times (p := p) (fun _ c hc => gives_decodeFloorClass (hclass c hc))
    (fun _ c hc => cuts_decodeFloorClass (hclass c hc)) 0
  have hdrop : (xList.drop 2).length = (classList.map (classDimensions classes)).sum := by
    rw [List.length_drop, hx, Nat.add_sub_cancel_left]
  rw [hclasses, hmax] at htable hcut
  simp only [floor1Fields, List.append_assoc, List.cons_append, List.nil_append, List.tail_cons]
  refine .read_then <| (Payload.Cuts.values 4 hlist).bind (gives_values 4 hlist) ?_
  rw [if_neg (by omega)]
  exact hcut.bind htable <| .read_then <| .read_then <| (cuts_xValues hdrop).bind_left

theorem cuts_decodeFloor {f : Floor} (hwf : f.wf) : p.Cuts (decodeFloor p) (floorFields f) := by
  cases f with
  | zero f => exact .read_then (v := 0) (cuts_decodeFloor0 hwf).bind_left
  | one f => exact .read_then (v := 1) (cuts_decodeFloor1 hwf).bind_left

/-! ## A residue (R111) -/

theorem cuts_cascadeByte (cascade : Nat) (high : Bool) : p.Cuts (cascadeByte p) (cascadeFields cascade high) := by
  cases high with
  | true => exact .read_then <| .flag_then (b := true) <| .read_then (.nil _)
  | false => exact .read_then <| .flag_then (b := false) (.nil _)

theorem cuts_cascade {cascade : List Nat} {high : List Bool} (hlen : high.length = cascade.length) :
    p.Cuts (times (fun _ => cascadeByte p) cascade.length 0)
      ((cascade.zip high).flatMap fun x => cascadeFields x.1 x.2) := by
  have h := Payload.Cuts.times_map (p := p) (f := fun _ => cascadeByte p) (fields := fun x => cascadeFields x.1 x.2)
    (cs := cascade.zip high) (k := Prod.fst) (i := 0) (fun _ _ => gives_cascadeByte _ _) fun _ _ => cuts_cascadeByte _ _
  rwa [List.length_zip, hlen, Nat.min_self] at h

theorem cuts_bookRow {cascade : Nat} {row : List (Option Nat)} (hrow : Residue.rowWf cascade row) :
    p.Cuts (bookRow p cascade) (row.flatMap fun b => b.toList.map fun n => (8, n)) := by
  obtain ⟨hlen, hsome, -⟩ := hrow
  have hentry (j : Nat) (hj : j < row.length) :
      p.Gives (if cascade.testBit j then some <$> read p 8 else pure none)
          (row[j].toList.map fun n => (8, n)) (.ok row[j]) ∧
        p.Cuts (if cascade.testBit j then some <$> read p 8 else pure none) (row[j].toList.map fun n => (8, n)) := by
    have hbit := hsome j (hlen ▸ hj)
    rw [List.getElem?_eq_getElem hj, Option.getD_some] at hbit
    rw [← hbit]
    cases row[j] with
    | none => exact ⟨.pure none, .nil _⟩
    | some n => exact ⟨(Payload.Gives.read 8 n).map some, (Payload.Cuts.read 8 n).map some⟩
  have h := Payload.Cuts.times_map (p := p) (cs := row) (k := id) (i := 0)
    (f := fun j => if cascade.testBit j then some <$> read p 8 else pure none)
    (fields := fun b => b.toList.map fun n => (8, n))
    (fun j hj => by rw [Nat.zero_add]; exact (hentry j hj).1) fun j hj => by rw [Nat.zero_add]; exact (hentry j hj).2
  rwa [hlen] at h

theorem cuts_bookRows {cascade : List Nat} {books : List (List (Option Nat))} (hlen : books.length = cascade.length)
    (hrows : ∀ x ∈ cascade.zip books, Residue.rowWf x.1 x.2) :
    p.Cuts (bookRows p cascade) (books.flatMap fun row => row.flatMap fun b => b.toList.map fun n => (8, n)) := by
  induction cascade generalizing books with
  | nil =>
    obtain rfl := List.eq_nil_of_length_eq_zero hlen
    exact .nil _
  | cons c cascade ih =>
    obtain ⟨row, books, rfl⟩ := List.exists_cons_of_length_eq_add_one hlen
    obtain ⟨hrow, hrows⟩ := List.forall_mem_cons.mp hrows
    exact (cuts_bookRow hrow).bind (gives_bookRow hrow) (ih (Nat.succ.inj hlen) hrows).bind_left

theorem cuts_decodeResidue {r : Residue} {fs : Fields} (hwf : r.wf) (hfs : ResidueFields r fs) :
    p.Cuts (decodeResidue p) fs := by
  obtain ⟨high, hhigh, rfl⟩ := hfs
  obtain ⟨residueType, beginBound, endBound, partitionSize, classifications, classbook, cascade, books⟩ := r
  obtain ⟨htype, -, -, -, ⟨hclass, -⟩, -, hcascade, -, hbooks, hrows⟩ := hwf
  obtain ⟨rawClass, rfl⟩ := Nat.exists_eq_add_of_le' hclass
  dsimp only at *
  have hgives := gives_cascade (p := p) (hhigh.trans hcascade.symm)
  have hcut := cuts_cascade (p := p) (hhigh.trans hcascade.symm)
  rw [hcascade] at hgives hcut
  rw [List.append_assoc, Nat.add_sub_cancel rawClass]
  refine .read_then ?_
  rw [if_neg (Nat.not_lt.mpr htype)]
  exact .read_then <| .read_then <| .read_then <| .read_then <| .read_then <|
    hcut.bind hgives (cuts_bookRows (hbooks.trans hcascade.symm) hrows).bind_left

/-! ## A mapping (R112) -/

theorem cuts_mappingType : p.Cuts (mappingType p) [(16, 0)] := .read_then (.nil _)

theorem cuts_mappingReserved : p.Cuts (mappingReserved p) [(2, 0)] := .read_then (.nil _)

theorem cuts_couplingPair (ch : Nat) (x : Nat × Nat) :
    p.Cuts (couplingPair p ch) [(ilog (ch - 1), x.1), (ilog (ch - 1), x.2)] := .read_then <| .read_then <| .nil _

theorem cuts_submapCount_then {β : Type} {g : Nat → Parser β} {fs : Fields} {many : Bool} {submaps : Nat}
    (hg : p.Cuts (g (if many then submaps - 1 + 1 else 1)) fs) :
    p.Cuts (flag p >>= fun many => if many then (· + 1) <$> read p 4 >>= g else pure 1 >>= g)
      (submapsFields many submaps ++ fs) := by
  cases many with
  | false => exact .flag_then (b := false) <| .then_of_nil (.pure 1) hg
  | true =>
    exact .flag_then (b := true) <| ((Payload.Cuts.read 4 (submaps - 1)).map (· + 1)).bind
      ((Payload.Gives.read 4 (submaps - 1)).map (· + 1)) hg

theorem cuts_mappingCoupling {m : Mapping} (hwf : m.wf) (many : Bool) :
    p.Cuts (mappingCoupling p m.mux.length) (submapsFields many m.submaps ++ couplingFields m) := by
  obtain ⟨-, -, -, hmagnitude, hangle, hpairs, -⟩ := hwf
  obtain ⟨_, submaps, couplingSteps, magnitude, angle, mux, _⟩ := m
  dsimp only at *
  refine cuts_submapCount_then ?_
  cases couplingSteps with
  | zero => exact .flag_then (b := false) (.nil _)
  | succ raw =>
    have hzip : (magnitude.zip angle).length = raw + 1 := by rw [List.length_zip, hmagnitude, hangle, Nat.min_self]
    have htimes := Payload.Cuts.times (p := p) (fun _ x hx => gives_couplingPair (hpairs x hx))
      (fun _ x _ => cuts_couplingPair mux.length x) 0
    rw [hzip] at htimes
    exact .flag_then (b := true) <| .read_then <| htimes.bind_left

theorem cuts_mux {submaps : Nat} {mux : List Nat} (hmux : ∀ v ∈ mux, v < submaps) :
    p.Cuts (if submaps > 1 then times (fun _ => muxValue p submaps) mux.length 0
        else pure (List.replicate mux.length 0))
      (if submaps > 1 then mux.map fun v => (4, v) else []) := by
  split
  next =>
    rw [List.map_eq_flatMap]
    exact .times (fun _ v hv => gives_muxValue (hmux v hv)) (fun _ _ _ => .read_then (.nil _)) 0
  next => exact .nil _

theorem cuts_submapRecords {n : Nat} {unused : List Nat} {submaps : List Submap} (hunused : unused.length = n)
    (hsubmaps : submaps.length = n) :
    p.Cuts (times (fun _ => submapRecord p) n 0)
      ((unused.zip submaps).flatMap fun x => [(8, x.1), (8, x.2.floor), (8, x.2.residue)]) := by
  have h := Payload.Cuts.times_map (p := p) (f := fun _ => submapRecord p)
    (fields := fun x : Nat × Submap => [(8, x.1), (8, x.2.floor), (8, x.2.residue)]) (cs := unused.zip submaps)
    (k := Prod.snd) (i := 0) (fun _ _ => gives_submapRecord _)
    fun _ _ => .read_then <| .read_then <| .read_then <| .nil _
  rwa [List.length_zip, hunused, hsubmaps, Nat.min_self] at h

theorem cuts_mappingMux {m : Mapping} (hwf : m.wf) {unused : List Nat} (hunused : unused.length = m.submaps) :
    p.Cuts (mappingMux p m.mux.length (mappingHead m))
      ((if m.submaps > 1 then m.mux.map fun v => (4, v) else []) ++
        (unused.zip m.submapsVec).flatMap fun x => [(8, x.1), (8, x.2.floor), (8, x.2.residue)]) := by
  obtain ⟨-, -, -, -, -, -, hmux, hvec, -⟩ := hwf
  exact .ite_bind <| (cuts_mux hmux).bind (gives_mux hmux) (cuts_submapRecords hunused hvec).bind_left

theorem cuts_decodeMapping {m : Mapping} {fs : Fields} (hwf : m.wf) (hfs : MappingFields m fs) :
    p.Cuts (decodeMapping p m.mux.length) fs := by
  obtain ⟨many, unused, hmany, hunused, rfl⟩ := hfs
  simp only [List.append_assoc]
  rw [← List.append_assoc (submapsFields many m.submaps)]
  have hcoupling := cuts_mappingCoupling (p := p) hwf many
  exact cuts_mappingType.bind gives_mappingType <| hcoupling.bind (gives_mappingCoupling hwf hmany) <|
    cuts_mappingReserved.bind gives_mappingReserved <| cuts_mappingMux hwf hunused

/-! ## A mode and a time-domain transform (R113, R114) -/

theorem cuts_modeWindow : p.Cuts (modeWindow p) [(16, 0)] := .read_then (.nil _)

theorem cuts_modeTransform : p.Cuts (modeTransform p) [(16, 0)] := .read_then (.nil _)

theorem cuts_decodeMode {m : Mode} : p.Cuts (decodeMode p) (modeFields m) :=
  .flag_then <| cuts_modeWindow.bind gives_modeWindow <| cuts_modeTransform.bind gives_modeTransform <|
    .read_then (.nil _)

theorem cuts_decodeTdt : p.Cuts (decodeTdt p) tdtFields := .read_then (.nil _)

end

/-- A record command on a payload that ends inside one of its record's fields. -/
theorem exec_of_cuts {s : State} {stage : Stage} {i : Instr} {fs before after : Fields} {n v : Nat}
    (hi : (stage, i) ∈ recordEntries) (hcheck : s.decodeCheck (decide (stage = .mapping)) = none)
    (hcut : s.payload.Cuts (recordDecoder s.params s.payload s.channels stage) fs)
    (hfs : fs = before ++ (n, v) :: after) (hn : n ≠ 0) (hold : s.payload.holds s.bitPos.toNat before = true)
    (hshort : 8 * s.inLen.toNat < s.bitPos.toNat + before.bits + n) :
    exec i s = .next (({ s with bitPos := Word.low (s.bitPos.toNat + before.bits) }).afterError
      7 (Word.low (s.bitPos.toNat + before.bits)) (Word.low n) (ErrCtx.word ⟨stage, false, 0⟩)) := by
  rw [exec_recordCommand hi, State.runDecode_of_check hcheck, hcut _ _ before n v after hfs hn hold hshort]
  rfl

/-- Settles O31: each decoder reads the grammar's fields one by one, so the first that does not fit ends it. -/
theorem cutRecordEndsPrematurely : Obligations.CutRecordEndsPrematurely := by
  intro s i fs before after n v ctx hlen hrecord hfs hn hold hshort
  have hcheck := State.decodeCheck_none (s := s) false hlen nofun
  obtain ⟨c, hwf, hfit, hfields, rfl, rfl⟩ | ⟨rfl, rfl, rfl⟩ | ⟨f, hwf, rfl, rfl, rfl⟩ | ⟨r, hwf, hfields, rfl, rfl⟩ |
    ⟨m, hwf, hmux, hch, hfields, rfl, rfl⟩ | ⟨m, hwf, rfl, rfl, rfl⟩ := hrecord
  · exact exec_of_cuts (stage := .codebook) (by decide) hcheck ((cuts_decodeCodebook hwf hfit hfields).map _) hfs hn
      hold hshort
  · exact exec_of_cuts (stage := .tdt) (by decide) hcheck (cuts_decodeTdt.map _) hfs hn hold hshort
  · exact exec_of_cuts (stage := .floor) (by decide) hcheck ((cuts_decodeFloor hwf).map _) hfs hn hold hshort
  · exact exec_of_cuts (stage := .residue) (by decide) hcheck ((cuts_decodeResidue hwf hfields).map _) hfs hn hold hshort
  · have hcut := cuts_decodeMapping (p := s.payload) hwf hfields
    rw [hmux] at hcut
    exact exec_of_cuts (stage := .mapping) (by decide) (State.decodeCheck_none true hlen fun _ => hch) (hcut.map _) hfs
      hn hold hshort
  · exact exec_of_cuts (stage := .mode) (by decide) hcheck (cuts_decodeMode.map _) hfs hn hold hshort

end Sys2Proof.Machine

/-! # A decode command, field by field (70_reset_and_hazards.md R458, 10_state.md R63)

The moves of the engine inside a decode command end where the command's one transition ends. -/

namespace Sys2Proof.Machine

/-! ## A move inside a command -/

/-- What the engine reads next inside a command, as a part of a record's decoder: a fixed-value field with its check and
what its instruction goes on to, or a plain field. -/
def State.nextField (s : State) : Parser Progress :=
  match s.parse.point with
  | .codebookSync => do
    codebookSync s.payload
    return .more { s.parse with point := .codebookTable }
  | .codebookLookup => do
    let r ← codebookLookup s.params s.payload s.parse.book.entries s.parse.book.dimensions
    return .more { s.parse with lookupType := r.1, vectorTable := r.2, point := .codebookTree }
  | .tdtReserved => do
    let r ← decodeTdt s.payload
    return s.parse.recordDone (.tdt r)
  | .floorType => do
    let r ← decodeFloor s.payload
    return s.parse.recordDone (.floor r)
  | .residueType => do
    let r ← decodeResidue s.payload
    return s.parse.recordDone (.residue r)
  | .mappingType => do
    mappingType s.payload
    return .more { s.parse with point := .mappingCoupling }
  | .mappingReserved => do
    mappingReserved s.payload
    return .more { s.parse with point := .mappingMux }
  | .modeWindow => do
    modeWindow s.payload
    return .more { s.parse with point := .modeTransform }
  | .modeTransform => do
    modeTransform s.payload
    return .more { s.parse with point := .modeMapping }
  | .setupFraming => do
    let framing ← flag s.payload
    if framing = false then raise .trailingDataOrMissingFramingBit 0 0
    trailingCheck s.payload
    return .emit (.setup s.parse.header)
  | _ => s.plainField

section
variable {s : State} {f : Field}

/-- A fixed-value field is read, and each value is an instruction that goes on as `rest` does, or the error of R116. -/
theorem engineField_of_tag (hpt : pointField s.parse.point = some f) {rest : Nat → Parser Progress}
    (h : ∀ v, (∃ i, decodeField f v = .ok i ∧
        exec i s = .next (s.applyField (consume s.payload f.width >>= fun _ => rest v))) ∨
      (∃ r, decodeField f v = .error r ∧ ∀ c, rest v c = .error (rejectError r) c)) :
    s.engineField.outcome = .next (s.applyField (read s.payload f.width >>= rest)) := by
  have happly {v : Nat} {c : Cursor} (hread : read s.payload f.width ⟨s.bitPos.toNat, s.parse.ctx⟩ = .ok v c) :
      s.applyField (read s.payload f.width >>= rest) =
        s.applyField (consume s.payload f.width >>= fun _ => rest v) := by
    have hconsume : consume s.payload f.width ⟨s.bitPos.toNat, s.parse.ctx⟩ = .ok () c := by
      rw [consume, Parser.bind_of_ok hread]
      rfl
    rw [State.applyField, Parser.bind_of_ok hread, State.applyField, Parser.bind_of_ok hconsume]
  cases hread : read s.payload f.width ⟨s.bitPos.toNat, s.parse.ctx⟩ with
  | error e c =>
    rw [State.applyField_of_error (Parser.bind_of_error hread)]
    simp [State.engineField, hpt, hread, Turn.outcome]
  | ok v c =>
    obtain ⟨i, hdec, hexec⟩ | ⟨r, hdec, hrest⟩ := h v
    · rw [happly hread, ← hexec]
      simp [State.engineField, hpt, hread, hdec, Turn.outcome]
    · rw [State.applyField_of_error ((Parser.bind_of_ok hread).trans (hrest c))]
      simp [State.engineField, hpt, hread, hdec, Turn.outcome]

/-- A field with one legal value and its check (R231, R320, R324, R340). -/
def fixedField (p : Payload) (n value : Nat) (kind : ErrKind) (aux : Nat) : Parser Unit := do
  let x ← read p n
  if x ≠ value then raise kind x aux

/-- A field with one legal value that only leads to the next point. -/
theorem engineField_of_passTag {value aux : Nat} {i : Instr} {kind : ErrKind} {v : ParseVars}
    (hpt : pointField s.parse.point = some f)
    (hdec : ∀ x, decodeField f x = if x = value then .ok i else .error (.illegalValue f x))
    (hexec : exec i s = .next (s.passTag f v)) (herr : ∀ x, rejectError (.illegalValue f x) = ⟨kind, x, aux⟩) :
    s.engineField.outcome = .next (s.applyField (do
      fixedField s.payload f.width value kind aux
      return .more v)) := by
  rw [fixedField, bind_assoc]
  refine engineField_of_tag hpt fun x => ?_
  by_cases hx : x = value
  · refine .inl ⟨i, by rw [hdec, if_pos hx], ?_⟩
    rw [hexec, State.passTag, if_neg (not_not.mpr hx)]
    rfl
  · refine .inr ⟨_, by rw [hdec, if_neg hx], fun c => ?_⟩
    rw [if_pos hx, herr]
    rfl

theorem engineField_codebookLookup (hpt : s.parse.point = .codebookLookup) :
    s.engineField.outcome = .next (s.applyField (do
      let r ← codebookLookup s.params s.payload s.parse.book.entries s.parse.book.dimensions
      return .more { s.parse with lookupType := r.1, vectorTable := r.2, point := .codebookTree })) := by
  simp only [codebookLookup, bind_assoc]
  refine engineField_of_tag (f := .codebookLookup) (by rw [hpt]; rfl) fun x => ?_
  match x with
  | 0 => exact .inl ⟨.codebookLookupNone, rfl, rfl⟩
  | 1 => exact .inl ⟨.codebookLookupType1, rfl, by simp [exec, execCodebookLookupType1, State.lookupTag]⟩
  | 2 => exact .inl ⟨.codebookLookupType2, rfl, by simp [exec, execCodebookLookupType2, State.lookupTag]⟩
  | x + 3 => exact .inr ⟨_, rfl, fun c => rfl⟩

theorem engineField_tdtReserved (hpt : s.parse.point = .tdtReserved) :
    s.engineField.outcome = .next (s.applyField (do
      let r ← decodeTdt s.payload
      return s.parse.recordDone (.tdt r))) := by
  simp only [decodeTdt, bind_assoc]
  refine engineField_of_tag (f := .tdtReserved) (by rw [hpt]; rfl) fun x => ?_
  match x with
  | 0 => exact .inl ⟨.tdtReserved, rfl, rfl⟩
  | x + 1 => exact .inr ⟨_, rfl, fun c => rfl⟩

theorem engineField_floorType (hpt : s.parse.point = .floorType) :
    s.engineField.outcome = .next (s.applyField (do
      let r ← decodeFloor s.payload
      return s.parse.recordDone (.floor r))) := by
  simp only [decodeFloor, bind_assoc]
  refine engineField_of_tag (f := .floorType) (by rw [hpt]; rfl) fun x => ?_
  match x with
  | 0 => exact .inl ⟨.floorType0, rfl, by simp [exec, execFloorType0, State.recordTag]⟩
  | 1 => exact .inl ⟨.floorType1, rfl, by simp [exec, execFloorType1, State.recordTag]⟩
  | x + 2 => exact .inr ⟨_, rfl, fun c => rfl⟩

theorem engineField_residueType (hpt : s.parse.point = .residueType) :
    s.engineField.outcome = .next (s.applyField (do
      let r ← decodeResidue s.payload
      return s.parse.recordDone (.residue r))) := by
  simp only [decodeResidue, bind_assoc]
  refine engineField_of_tag (f := .residueType) (by rw [hpt]; rfl) fun x => ?_
  match x with
  | 0 => exact .inl ⟨.residueType0, rfl, by simp [exec, execResidueType0, State.recordTag]⟩
  | 1 => exact .inl ⟨.residueType1, rfl, by simp [exec, execResidueType1, State.recordTag]⟩
  | 2 => exact .inl ⟨.residueType2, rfl, by simp [exec, execResidueType2, State.recordTag]⟩
  | x + 3 => exact .inr ⟨_, rfl, fun c => rfl⟩

theorem engineField_setupFraming (hpt : s.parse.point = .setupFraming) :
    s.engineField.outcome = .next (s.applyField (do
      let framing ← flag s.payload
      if framing = false then raise .trailingDataOrMissingFramingBit 0 0
      trailingCheck s.payload
      return .emit (.setup s.parse.header))) := by
  simp only [flag, bind_assoc, pure_bind]
  refine engineField_of_tag (f := .setupFraming) (by rw [hpt]; rfl) fun x => ?_
  by_cases hx : x = 1
  · subst hx
    exact .inl ⟨.setupFraming, rfl, rfl⟩
  · exact .inr ⟨_, if_neg hx, fun c => by rw [beq_eq_false_iff_ne.mpr hx]; rfl⟩

end

/-- A move inside a command reads the next field. -/
theorem engineField_outcome (s : State) : s.engineField.outcome = .next (s.applyField s.nextField) := by
  unfold State.nextField
  cases hpt : s.parse.point with
  | codebookSync =>
    exact engineField_of_passTag (f := .codebookSync) (by rw [hpt]; rfl) (fun _ => rfl) rfl fun _ => rfl
  | codebookLookup => exact engineField_codebookLookup hpt
  | tdtReserved => exact engineField_tdtReserved hpt
  | floorType => exact engineField_floorType hpt
  | residueType => exact engineField_residueType hpt
  | mappingType =>
    exact engineField_of_passTag (f := .mappingType) (by rw [hpt]; rfl) (fun _ => rfl) rfl fun _ => rfl
  | mappingReserved =>
    exact engineField_of_passTag (f := .mappingReserved) (by rw [hpt]; rfl) (fun _ => rfl) rfl fun _ => rfl
  | modeWindow =>
    exact engineField_of_passTag (f := .modeWindow) (by rw [hpt]; rfl) (fun _ => rfl) rfl fun _ => rfl
  | modeTransform =>
    exact engineField_of_passTag (f := .modeTransform) (by rw [hpt]; rfl) (fun _ => rfl) rfl fun _ => rfl
  | setupFraming => exact engineField_setupFraming hpt
  | none | codebookTable | codebookOrdered | codebookTree | mappingCoupling | mappingMux | modeBlockflag | modeMapping
  | setupCount =>
    simp [State.engineField, hpt, pointField, Turn.outcome]

end Sys2Proof.Machine

namespace Sys2Proof.Machine

/-! ## Moves -/

/-- Some moves of the engine lead from one state to the other. -/
def Reaches (s t : State) : Prop := ∃ n, ∀ k, State.moves (k + n) s = State.moves k t

theorem Reaches.refl (s : State) : Reaches s s := ⟨0, fun _ => rfl⟩

theorem Reaches.trans {s t u : State} (hst : Reaches s t) (htu : Reaches t u) : Reaches s u := by
  obtain ⟨n, hn⟩ := hst
  obtain ⟨m, hm⟩ := htu
  exact ⟨m + n, fun k => by rw [← Nat.add_assoc, hn, hm]⟩

theorem Reaches.of_move {s t : State} (hbusy : s.phase = .busy) (h : s.engineMove.outcome = .next t) : Reaches s t := by
  refine ⟨1, fun k => ?_⟩
  rw [State.moves, if_neg (by simp [hbusy])]
  cases hmove : s.engineMove with
  | done u =>
    rw [hmove] at h
    obtain rfl := Host.Outcome.next.inj h
    rfl
  | run i u =>
    rw [hmove] at h
    have h : exec i u = .next t := h
    simp only [h]

/-- The state at a position inside a command. -/
def State.inside (s : State) (v : ParseVars) (q : Nat) : State := { s with bitPos := Word.low q, parse := v }

/-- Where a field's answer leads. -/
def State.afterField (s : State) (start : Nat) : EStateM.Result Raise Cursor Progress → State
  | .ok (.more v) c => s.inside v c.pos
  | .ok (.emit r) c => s.endDecode start (.ok r c)
  | .error e c => s.endDecode start (.error e c)

theorem endDecode_inside (s : State) (v : ParseVars) (q start : Nat) (x : EStateM.Result Raise Cursor Record) :
    (s.inside v q).endDecode start x = s.endDecode start x := by
  cases x <;> rfl

theorem applyField_inside (s : State) {v : ParseVars} {q : Nat} (hq : q < 2 ^ 32) (f : Parser Progress) :
    (s.inside v q).applyField f = s.afterField v.start (f ⟨q, v.ctx⟩) := by
  have hpos : (s.inside v q).bitPos.toNat = q := Nat.mod_eq_of_lt hq
  have hparse : (s.inside v q).parse = v := rfl
  rw [State.applyField, hpos, hparse]
  cases hf : f ⟨q, v.ctx⟩ with
  | ok g c =>
    cases g with
    | more w => rfl
    | emit r => exact endDecode_inside s v q v.start _
  | error e c => exact endDecode_inside s v q v.start _

/-- A move inside a command, by the answer of the next field. -/
theorem reaches_afterField {s : State} (hbusy : s.phase = .busy) {v : ParseVars} (hpt : v.point ≠ .none) {q : Nat}
    (hq : q < 2 ^ 32) :
    Reaches (s.inside v q) (s.afterField v.start (({ s with parse := v }).nextField ⟨q, v.ctx⟩)) := by
  refine .of_move hbusy ?_
  have hmove : (s.inside v q).engineMove = (s.inside v q).engineField := if_neg hpt
  rw [hmove, engineField_outcome, applyField_inside s hq]
  rfl

/-! ## A decoder and the moves through it -/

/-- From what a field has answered, wherever it ended, the moves end as the command does by the rest of its decoder. -/
def State.Follows (s : State) (start : Nat) (g : Progress) (ctx : ErrCtx) (rest : Parser Record) : Prop :=
  ∀ q < 2 ^ 32, Reaches (s.afterField start (.ok g ⟨q, ctx⟩)) (s.endDecode start (rest ⟨q, ctx⟩))

namespace State.Follows
variable {s : State}

theorem emit (start : Nat) (r : Record) (ctx : ErrCtx) : s.Follows start (.emit r) ctx (pure r) :=
  fun _ _ => .refl _

/-- The context of the next record is set before its decoder runs (R360). -/
theorem setCtx {start : Nat} {g : Progress} {rest : Parser Record} {stage : Stage} {inCount : Bool} {index : Nat}
    (h : s.Follows start g ⟨stage, inCount, index⟩ rest) (ctx : ErrCtx) :
    s.Follows start g ctx (setCtx stage inCount index >>= fun _ => rest) := by
  intro q hq
  have hg : s.afterField start (.ok g ⟨q, ctx⟩) = s.afterField start (.ok g ⟨q, ⟨stage, inCount, index⟩⟩) := by
    cases g <;> rfl
  rw [hg]
  exact h q hq

/-- The next field is the next part of the decoder, and the moves go on after it as the decoder does. -/
theorem field {α : Type} {v : ParseVars} {f : Parser α} {k : α → Progress} {rest : α → Parser Record} {start : Nat}
    {ctx : ErrCtx} (hbusy : s.phase = .busy) (hlen : s.inLen.toNat ≤ 2 ^ 28) (hpt : v.point ≠ .none)
    (hnext : ({ s with parse := v }).nextField = f >>= fun a => pure (k a)) (hframes : s.payload.Frames f)
    (hstart : v.start = start) (hctx : v.ctx = ctx)
    (hrest : ∀ a c d, f c = .ok a d → s.Follows start (k a) ctx (rest a)) :
    s.Follows start (.more v) ctx (f >>= rest) := by
  subst hstart hctx
  intro q hq
  refine (reaches_afterField hbusy hpt hq).trans ?_
  rw [hnext]
  obtain ⟨x, q', hx, hq', -⟩ := hframes q
  have hlt : q' < 2 ^ 32 := by
    have : s.payload.len ≤ 2 ^ 28 := hlen
    omega
  cases x with
  | error e =>
    rw [Parser.bind_of_error (hx _), Parser.bind_of_error (hx _)]
    exact .refl _
  | ok a =>
    rw [Parser.bind_of_ok (hx _), Parser.bind_of_ok (hx _)]
    exact hrest a _ _ (hx v.ctx) q' hlt

end State.Follows

/-! ## The records -/

/-- Parse variables that stand in the same command and list (R63). -/
def ParseVars.SameList (v w : ParseVars) : Prop :=
  w.inSetup = v.inSetup ∧ w.stage = v.stage ∧ w.left = v.left ∧ w.start = v.start ∧ w.header = v.header

/-- The context of a list's current record, or of a record's own command (R37). -/
def ParseVars.recordCtx (v : ParseVars) : ErrCtx :=
  ⟨v.stage, false, if v.inSetup then headerCount v.header v.stage else 0⟩

theorem ParseVars.SameList.refl (v : ParseVars) : v.SameList v := ⟨rfl, rfl, rfl, rfl, rfl⟩

theorem ParseVars.ctx_of_point {v : ParseVars} (h : v.point ≠ .setupCount) : v.ctx = v.recordCtx := by
  simp [ParseVars.ctx, ParseVars.recordCtx, h]

section
variable {s : State} (hbusy : s.phase = .busy) (hlen : s.inLen.toNat ≤ 2 ^ 28) {v : ParseVars}
  {rest : Record → Parser Record}
include hbusy hlen

/-- A field of a record: neither the start nor the context changes on the way. -/
theorem follows_recordField {α : Type} {w : ParseVars} {f : Parser α} {k : α → Progress} {rest : α → Parser Record}
    (hpt : w.point ≠ .none ∧ w.point ≠ .setupCount) (hsame : v.SameList w)
    (hnext : ({ s with parse := w }).nextField = f >>= fun a => pure (k a)) (hframes : s.payload.Frames f)
    (hrest : ∀ a c d, f c = .ok a d → s.Follows v.start (k a) v.recordCtx (rest a)) :
    s.Follows v.start (.more w) v.recordCtx (f >>= rest) := by
  obtain ⟨hnone, hcount⟩ := hpt
  obtain ⟨hsetup, hstage, -, hstart, hheader⟩ := hsame
  refine .field hbusy hlen hnone hnext hframes hstart ?_ hrest
  rw [ParseVars.ctx_of_point hcount, ParseVars.recordCtx, hsetup, hstage, hheader]
  rfl

variable (hdone : ∀ w r, v.SameList w → recordKind r = v.stage.code →
  s.Follows v.start (w.recordDone r) v.recordCtx (rest r))
include hdone

theorem follows_tdt (hstage : v.stage = .tdt) :
    s.Follows v.start (.more { v with point := .tdtReserved }) v.recordCtx
      (recordDecoder s.params s.payload s.channels .tdt >>= rest) := by
  simp only [recordDecoder, map_eq_pure_bind, bind_assoc, pure_bind]
  exact follows_recordField hbusy hlen (by simp) (.refl v) (f := decodeTdt s.payload)
    (k := fun r => ({ v with point := .tdtReserved } : ParseVars).recordDone (.tdt r)) rfl (frames_decodeTdt _)
    fun r _ _ _ => hdone _ (.tdt r) (.refl v) (by rw [hstage]; rfl)

theorem follows_floor (hstage : v.stage = .floor) :
    s.Follows v.start (.more { v with point := .floorType }) v.recordCtx
      (recordDecoder s.params s.payload s.channels .floor >>= rest) := by
  simp only [recordDecoder, map_eq_pure_bind, bind_assoc, pure_bind]
  exact follows_recordField hbusy hlen (by simp) (.refl v) (f := decodeFloor s.payload)
    (k := fun r => ({ v with point := .floorType } : ParseVars).recordDone (.floor r)) rfl (frames_decodeFloor _)
    fun r _ _ _ => hdone _ (.floor r) (.refl v) (by rw [hstage]; rfl)

theorem follows_residue (hstage : v.stage = .residue) :
    s.Follows v.start (.more { v with point := .residueType }) v.recordCtx
      (recordDecoder s.params s.payload s.channels .residue >>= rest) := by
  simp only [recordDecoder, map_eq_pure_bind, bind_assoc, pure_bind]
  exact follows_recordField hbusy hlen (by simp) (.refl v) (f := decodeResidue s.payload)
    (k := fun r => ({ v with point := .residueType } : ParseVars).recordDone (.residue r)) rfl (frames_decodeResidue _)
    fun r _ _ _ => hdone _ (.residue r) (.refl v) (by rw [hstage]; rfl)

theorem follows_mode (hstage : v.stage = .mode) :
    s.Follows v.start (.more { v with point := .modeBlockflag }) v.recordCtx
      (recordDecoder s.params s.payload s.channels .mode >>= rest) := by
  simp only [recordDecoder, decodeMode, map_eq_pure_bind, bind_assoc, pure_bind]
  refine follows_recordField hbusy hlen (by simp) (.refl v) (f := flag s.payload)
    (k := fun b => .more { v with blockflag := b, point := .modeWindow }) rfl .flag fun b _ _ _ => ?_
  refine follows_recordField hbusy hlen (by simp) (.refl v) (f := modeWindow s.payload)
    (k := fun _ => .more { v with blockflag := b, point := .modeTransform }) rfl (frames_modeWindow _) fun _ _ _ _ => ?_
  refine follows_recordField hbusy hlen (by simp) (.refl v) (f := modeTransform s.payload)
    (k := fun _ => .more { v with blockflag := b, point := .modeMapping }) rfl (frames_modeTransform _)
    fun _ _ _ _ => ?_
  exact follows_recordField hbusy hlen (by simp) (.refl v) (f := read s.payload 8)
    (k := fun m => ({ v with blockflag := b, point := .modeMapping } : ParseVars).recordDone (.mode ⟨b, 0, 0, m⟩)) rfl
    (.read _) fun m _ _ _ => hdone _ _ (.refl v) (by rw [hstage]; rfl)

theorem follows_mapping (hstage : v.stage = .mapping) :
    s.Follows v.start (.more { v with point := .mappingType }) v.recordCtx
      (recordDecoder s.params s.payload s.channels .mapping >>= rest) := by
  simp only [recordDecoder, decodeMapping, map_eq_pure_bind, bind_assoc, pure_bind]
  refine follows_recordField hbusy hlen (by simp) (.refl v) (f := mappingType s.payload)
    (k := fun _ => .more { v with point := .mappingCoupling }) rfl (frames_mappingType _) fun _ _ _ _ => ?_
  refine follows_recordField hbusy hlen (by simp) (.refl v) (f := mappingCoupling s.payload s.channels)
    (k := fun h => .more { v with mapping := h, point := .mappingReserved }) rfl (frames_mappingCoupling _ _)
    fun h _ _ _ => ?_
  refine follows_recordField hbusy hlen (by simp) (.refl v) (f := mappingReserved s.payload)
    (k := fun _ => .more { v with mapping := h, point := .mappingMux }) rfl (frames_mappingReserved _)
    fun _ _ _ _ => ?_
  exact follows_recordField hbusy hlen (by simp) (.refl v) (f := mappingMux s.payload s.channels h)
    (k := fun m => ({ v with mapping := h, point := .mappingMux } : ParseVars).recordDone (.mapping m)) rfl
    (frames_mappingMux _ _ _) fun m _ _ _ => hdone _ _ (.refl v) (by rw [hstage]; rfl)

/-- A codebook from its lookup on (R237 to R239). -/
theorem follows_codebookLookup (hstage : v.stage = .codebook) {w : ParseVars} (hsame : v.SameList w) :
    s.Follows v.start (.more { w with point := .codebookLookup }) v.recordCtx (do
      let r ← codebookLookup s.params s.payload w.book.entries w.book.dimensions
      let c ← codebookTree s.params w.book r.1 r.2
      rest (.codebook c)) := by
  refine follows_recordField hbusy hlen (by simp) hsame
    (f := codebookLookup s.params s.payload w.book.entries w.book.dimensions)
    (k := fun r => .more { w with lookupType := r.1, vectorTable := r.2, point := .codebookTree }) rfl
    (frames_codebookLookup _ _ _ _) fun r _ _ _ => ?_
  exact follows_recordField hbusy hlen (by simp) hsame (f := codebookTree s.params w.book r.1 r.2)
    (k := fun c => ({ w with lookupType := r.1, vectorTable := r.2, point := .codebookTree } : ParseVars).recordDone
      (.codebook c)) rfl (frames_codebookTree _ _ _ _ _) fun c _ _ _ => hdone _ _ hsame (by rw [hstage]; rfl)

end

/-! ## The length table of a codebook -/

/-- `orderedRuns_of_lt` at a length of 33 too, which the run's check refuses. -/
theorem orderedRuns_of_le {p : Payload} {entries e l : Nat} (he : e < entries) (hl : l ≤ 33) :
    orderedRuns p entries (33 - l) e = (do
      let number ← orderedField p entries e l
      let rest ← orderedRuns p entries (33 - (l + 1)) (e + number)
      return List.replicate number (some l) ++ rest) := by
  by_cases hlt : l ≤ 32
  · exact orderedRuns_of_lt he hlt
  · obtain rfl : l = 33 := by omega
    simp only [Nat.sub_self, orderedRuns, if_pos he]
    rfl

section
variable {s : State} (hbusy : s.phase = .busy) (hlen : s.inLen.toNat ≤ 2 ^ 28) {v : ParseVars}
  {rest : CodebookHead → Parser Record} (hrest : ∀ w, v.SameList w →
    s.Follows v.start (.more { w with point := .codebookLookup }) v.recordCtx (rest w.book))
include hbusy hlen hrest

/-- The runs of an ordered table, one move each (R236). -/
theorem follows_orderedRuns {w : ParseVars} (hsame : v.SameList w) (hlength : w.currentLength ≤ 33) :
    s.Follows v.start (.more { w with point := .codebookOrdered }) v.recordCtx (do
      let lengths ← orderedRuns s.payload w.book.entries (33 - w.currentLength) w.currentEntry
      rest { w.book with codewordLengths := w.book.codewordLengths ++ lengths }) := by
  induction hroom : 33 - w.currentLength using Nat.strong_induction_on generalizing w with
  | _ room ih =>
    subst hroom
    by_cases he : w.currentEntry < w.book.entries
    · rw [orderedRuns_of_le he hlength]
      simp only [bind_assoc, pure_bind]
      refine follows_recordField hbusy hlen (by simp) hsame
        (f := orderedField s.payload w.book.entries w.currentEntry w.currentLength)
        (k := fun number => .more { w with
          book := { w.book with
            codewordLengths := w.book.codewordLengths ++ List.replicate number (some w.currentLength) }
          currentEntry := w.currentEntry + number
          currentLength := w.currentLength + 1
          point := .codebookOrdered }) (if_pos he) (frames_orderedField _ _ _ _) fun n c d hok => ?_
      have hl := (orderedField_eq_ok hok).1
      have hgo := ih (33 - (w.currentLength + 1)) (by omega) (w := { w with
          book := { w.book with codewordLengths := w.book.codewordLengths ++ List.replicate n (some w.currentLength) }
          currentEntry := w.currentEntry + n
          currentLength := w.currentLength + 1 }) hsame (Nat.succ_le_succ hl) rfl
      simpa only [List.append_assoc] using hgo
    · have hend : orderedRuns s.payload w.book.entries (33 - w.currentLength) w.currentEntry = pure [] := by
        cases 33 - w.currentLength <;> exact if_neg he
      rw [hend, ← pure_bind () fun _ => (pure [] : Parser (List (Option Nat))), bind_assoc]
      refine follows_recordField hbusy hlen (by simp) hsame (f := pure ())
        (k := fun _ => .more { w with point := .codebookLookup }) (if_neg he) (.pure ()) fun _ _ _ _ => ?_
      simpa only [pure_bind, List.append_nil] using hrest w hsame

end

/-- What is read of a length table before its ordered runs: the sizes with the runs' first length, or the whole table. -/
def tableStart (params : Params) (p : Payload) : Parser ((Nat × Nat × Nat) ⊕ CodebookHead) := do
  let (dimensions, entries, ordered) ← codebookSizes params p
  if ordered then
    let raw ← read p 5
    return .inl (dimensions, entries, raw)
  else
    let h ← unorderedTable p dimensions entries
    return .inr h

/-- The parse variables after it. -/
def ParseVars.afterTableStart (v : ParseVars) : (Nat × Nat × Nat) ⊕ CodebookHead → ParseVars
  | .inl (dimensions, entries, raw) => { v with
      book := ⟨dimensions, entries, true, Option.none, []⟩
      currentEntry := 0
      currentLength := raw + 1
      point := .codebookOrdered }
  | .inr h => { v with book := h, point := .codebookLookup }

/-- The rest of the length table after it. -/
def tableRest (p : Payload) : (Nat × Nat × Nat) ⊕ CodebookHead → Parser CodebookHead
  | .inl (dimensions, entries, raw) => do
    let lengths ← orderedRuns p entries (33 - (raw + 1)) 0
    return ⟨dimensions, entries, true, none, lengths⟩
  | .inr h => pure h

section
variable {params : Params} {p : Payload}

theorem codebookTable_eq_tableStart : codebookTable params p = tableStart params p >>= tableRest p := by
  rw [tableStart, codebookTable, bind_assoc]
  refine bind_congr fun ⟨dimensions, entries, ordered⟩ => ?_
  cases ordered <;> simp [tableRest]

theorem nextField_codebookTable {s : State} (hpt : s.parse.point = .codebookTable) :
    s.nextField = tableStart s.params s.payload >>= fun a => pure (.more (s.parse.afterTableStart a)) := by
  simp only [State.nextField, State.plainField, hpt, tableStart, bind_assoc]
  refine bind_congr fun ⟨dimensions, entries, ordered⟩ => ?_
  cases ordered <;> simp [ParseVars.afterTableStart]

theorem frames_tableStart : p.Frames (tableStart params p) :=
  (frames_codebookSizes p params).bind fun _ => ((Payload.Frames.read 5).bind fun _ => .pure _).ite
    ((frames_unorderedTable p _ _).bind fun _ => .pure _)

theorem tableStart_eq_inl {c d : Cursor} {dimensions entries raw : Nat}
    (h : tableStart params p c = .ok (.inl (dimensions, entries, raw)) d) : raw < 32 := by
  rw [tableStart, Parser.bind_eq_ok] at h
  obtain ⟨⟨dimensions, entries, ordered⟩, c₁, -, h⟩ := h
  cases ordered with
  | true =>
    obtain ⟨raw, c₂, hraw, ⟨⟩⟩ := Parser.bind_eq_ok.mp h
    exact (read_eq_ok hraw).1
  | false =>
    obtain ⟨_, c₂, -, ⟨⟩⟩ := Parser.bind_eq_ok.mp h

/-- A codebook, part by part, before what is done with it. -/
theorem decodeCodebook_bind (rest : Record → Parser Record) :
    (Record.codebook <$> decodeCodebook params p) >>= rest = (do
      codebookSync p
      let a ← tableStart params p
      let h ← tableRest p a
      let r ← codebookLookup params p h.entries h.dimensions
      let c ← codebookTree params h r.1 r.2
      rest (.codebook c)) := by
  simp only [decodeCodebook, codebookTable_eq_tableStart, map_eq_pure_bind, bind_assoc, pure_bind]

end

section
variable {s : State} (hbusy : s.phase = .busy) (hlen : s.inLen.toNat ≤ 2 ^ 28) {v : ParseVars}
  {rest : Record → Parser Record} (hdone : ∀ w r, v.SameList w → recordKind r = v.stage.code →
    s.Follows v.start (w.recordDone r) v.recordCtx (rest r))
include hbusy hlen hdone

theorem follows_codebook (hstage : v.stage = .codebook) :
    s.Follows v.start (.more { v with point := .codebookSync }) v.recordCtx
      (recordDecoder s.params s.payload s.channels .codebook >>= rest) := by
  have hlookup (w : ParseVars) (hsame : v.SameList w) := follows_codebookLookup hbusy hlen hdone hstage hsame
  rw [recordDecoder, decodeCodebook_bind]
  refine follows_recordField hbusy hlen (by simp) (.refl v) (f := codebookSync s.payload)
    (k := fun _ => .more { v with point := .codebookTable }) rfl (frames_codebookSync _) fun _ _ _ _ => ?_
  refine follows_recordField hbusy hlen (by simp) (.refl v) (f := tableStart s.params s.payload)
    (k := fun a => .more (({ v with point := .codebookTable } : ParseVars).afterTableStart a))
    (nextField_codebookTable rfl) frames_tableStart fun a c d hok => ?_
  match a with
  | .inl (dimensions, entries, raw) =>
    have hraw := tableStart_eq_inl hok
    have hruns := follows_orderedRuns hbusy hlen (rest := fun h => do
        let r ← codebookLookup s.params s.payload h.entries h.dimensions
        let c ← codebookTree s.params h r.1 r.2
        rest (.codebook c)) hlookup
      (w := { v with book := ⟨dimensions, entries, true, none, []⟩, currentEntry := 0, currentLength := raw + 1 })
      (.refl v) (Nat.succ_le_succ (Nat.le_of_lt hraw))
    simp only [tableRest, bind_assoc, pure_bind]
    exact hruns
  | .inr h =>
    simp only [tableRest, pure_bind]
    exact hlookup { v with book := h } (.refl v)

/-- A record, from its first field on, whatever follows it. -/
theorem follows_record {stage : Stage} (hmem : stage ∈ setupStages) (hstage : v.stage = stage) :
    s.Follows v.start (.more { v with point := firstPoint stage }) v.recordCtx
      (recordDecoder s.params s.payload s.channels stage >>= rest) := by
  simp only [setupStages, List.mem_cons, List.not_mem_nil, or_false] at hmem
  obtain rfl | rfl | rfl | rfl | rfl | rfl := hmem
  · exact follows_codebook hbusy hlen hdone hstage
  · exact follows_tdt hbusy hlen hdone hstage
  · exact follows_floor hbusy hlen hdone hstage
  · exact follows_residue hbusy hlen hdone hstage
  · exact follows_mapping hbusy hlen hdone hstage
  · exact follows_mode hbusy hlen hdone hstage

end

end Sys2Proof.Machine

namespace Sys2Proof.Machine
/-! ## The record commands -/

/-- The parse variables of an entered decode command (R240, R283, R304, R327, R342, R345, R364). -/
def State.enteredVars (s : State) (stage : Stage) (setup : Bool) : ParseVars :=
  { ParseVars.none with
    point := if setup then .setupCount else firstPoint stage
    inSetup := setup
    stage := stage
    start := if setup then 0 else s.bitPos.toNat }

section
variable {s : State} (hparams : s.params.wf) (hbusy : s.phase = .busy) (hparse : s.parse = ParseVars.none)
include hparams hbusy hparse

/-- A decode command entered by a move, whose decoder the moves follow from its first field on. -/
theorem exec_eq_moves {i : Instr} {mapped setup : Bool} {stage : Stage} {ctx : ErrCtx} {decoder : Parser Record}
    (hop : decodeOpcode s.cmd.toNat = .ok i) (hplan : decodePlan i = some (mapped, stage, setup))
    (hexec : exec i s = .next (s.runDecode mapped (s.enteredVars stage setup).start ctx decoder))
    (hfollows : s.inLen.toNat ≤ 2 ^ 28 →
      s.Follows (s.enteredVars stage setup).start (.more (s.enteredVars stage setup)) ctx decoder) :
    ∃ n, exec i s = .next (State.moves n s) := by
  have hmove := Reaches.of_move hbusy (engineMove_decode (by rw [hparse]; rfl) hop hplan)
  suffices h : Reaches s (s.runDecode mapped (s.enteredVars stage setup).start ctx decoder) by
    obtain ⟨n, hn⟩ := h
    exact ⟨0 + n, by rw [hn 0, hexec]; rfl⟩
  refine hmove.trans ?_
  cases hcheck : s.decodeCheck mapped with
  | some x =>
    rw [State.enterDecode, State.runDecode, hcheck]
    exact .refl _
  | none =>
    have hlen : s.inLen.toNat ≤ 2 ^ 28 := by
      rw [State.decodeCheck, ite_eq_iff] at hcheck
      obtain ⟨-, ⟨⟩⟩ | ⟨hle, -⟩ := hcheck
      exact Nat.le_trans (Nat.le_of_not_lt hle) hparams.1.2
    have hstart : (s.enteredVars stage setup).start < 2 ^ 32 := by
      cases setup
      · exact s.bitPos.isLt
      · exact Nat.two_pow_pos 32
    have henter : s.enterDecode mapped stage setup =
        s.inside (s.enteredVars stage setup) (s.enteredVars stage setup).start := by
      rw [enterDecode_of_check hcheck]
      cases setup <;> simp [State.inside, State.enteredVars, Word.low]
    rw [State.runDecode_of_check hcheck, henter]
    exact hfollows hlen _ hstart

/-- A record command is its record's fields. -/
theorem exec_recordCommand_eq_moves {stage : Stage} {i : Instr} (hi : (stage, i) ∈ recordEntries)
    (hop : decodeOpcode s.cmd.toNat = .ok i) : ∃ n, exec i s = .next (State.moves n s) := by
  have hentry : ∀ x ∈ recordEntries, decodePlan x.2 = some (decide (x.1 = .mapping), x.1, false) ∧
      x.1 ∈ setupStages := by decide
  obtain ⟨hplan, hmem⟩ := hentry _ hi
  refine exec_eq_moves hparams hbusy hparse hop hplan (exec_recordCommand hi s) fun hlen => ?_
  rw [← bind_pure (recordDecoder s.params s.payload s.channels stage)]
  refine follows_record hbusy hlen (v := s.enteredVars stage false) (fun w r hsame _ => ?_) hmem rfl
  rw [ParseVars.recordDone_emit r hsame.1]
  exact .emit _ _ _

end

/-- Settles O43: the moves follow the record's decoder field by field. -/
theorem fieldByFieldReachesCompletion : Obligations.FieldByFieldReachesCompletion := by
  intro s i hi hparams hbusy hparse hop
  have hentry : ∀ i ∈ [Instr.decodeFloor, .decodeResidue, .decodeMapping, .decodeMode, .decodeTdt],
      ∃ x ∈ recordEntries, x.2 = i := by decide
  obtain ⟨⟨stage, i⟩, hmem, rfl⟩ := hentry i hi
  exact exec_recordCommand_eq_moves hparams hbusy hparse hmem hop

end Sys2Proof.Machine

namespace Sys2Proof.Machine

/-! ## The setup header, field by field -/

/-! ### What a list leaves of the counts -/

/-- A record adds one to its own list. -/
theorem headerCount_pushRecord (h : SetupHeader) (r : Record) (stage : Stage) :
    headerCount (pushRecord h r) stage =
      headerCount h stage + if stage ∈ setupStages ∧ recordKind r = stage.code then 1 else 0 := by
  cases r <;> cases stage <;> simp [pushRecord, headerCount, recordKind, Stage.code, setupStages]

theorem Stage.code_injective : Function.Injective Stage.code := by
  intro a b
  cases a <;> cases b <;> decide

section
variable {stage : Stage} {r : Record} (hkind : recordKind r = stage.code)
include hkind

theorem headerCount_pushRecord_same (hmem : stage ∈ setupStages) (h : SetupHeader) :
    headerCount (pushRecord h r) stage = headerCount h stage + 1 := by
  rw [headerCount_pushRecord, if_pos ⟨hmem, hkind⟩]

theorem headerCount_pushRecord_other {t : Stage} (ht : t ≠ stage) (h : SetupHeader) :
    headerCount (pushRecord h r) t = headerCount h t := by
  rw [headerCount_pushRecord, if_neg fun hsame => ht (Stage.code_injective (hsame.2.symm.trans hkind)), Nat.add_zero]

end

/-- The stages of the orchestrator, one after another, none twice (R360). -/
theorem nextStage_of_suffix {stage : Stage} {rest : List Stage} (h : stage :: rest <:+ setupStages) :
    stage ∈ setupStages ∧ nextStage stage = rest.headD .framing ∧ stage ∉ rest := by
  have hall : ∀ l ∈ setupStages.tails, ∀ stage ∈ l.head?, stage ∈ setupStages ∧
      nextStage stage = l.tail.headD .framing ∧ stage ∉ l.tail := by decide
  exact hall _ ((List.mem_tails _ _).mpr h) _ rfl

/-! ### The lists -/

/-- Parse variables that DECODE_SETUP comes to after a stage's list: at the next stage's count field or at the framing
bit, with nothing added to the other lists (R360). -/
structure ParseVars.AfterList (v : ParseVars) (stage : Stage) (w : ParseVars) : Prop where
  inSetup : w.inSetup = true
  stage_eq : w.stage = nextStage stage
  point_eq : w.point = listPoint (nextStage stage)
  start_eq : w.start = v.start
  others : ∀ t ≠ stage, headerCount w.header t = headerCount v.header t

section
variable {s : State} (hbusy : s.phase = .busy) (hlen : s.inLen.toNat ≤ 2 ^ 28) {stage : Stage}
  (hmem : stage ∈ setupStages) {rest : SetupHeader → Parser Record}
include hbusy hlen hmem

/-- The next record of a list, whatever its completion leads to. -/
theorem follows_decodeRecords_succ {v : ParseVars} (hsetup : v.inSetup = true) (hstage : v.stage = stage) {n : Nat}
    (hdone : ∀ w r, v.SameList w → recordKind r = stage.code → s.Follows v.start (w.recordDone r) v.recordCtx
      (decodeRecords (recordDecoder s.params s.payload s.channels stage) stage n (headerCount v.header stage + 1)
        (pushRecord v.header r) >>= rest)) (ctx : ErrCtx) :
    s.Follows v.start (.more { v with point := firstPoint stage }) ctx
      (decodeRecords (recordDecoder s.params s.payload s.channels stage) stage (n + 1) (headerCount v.header stage)
        v.header >>= rest) := by
  have hctx : v.recordCtx = ⟨stage, false, headerCount v.header stage⟩ := by
    simp [ParseVars.recordCtx, hsetup, hstage]
  simp only [decodeRecords, bind_assoc]
  refine .setCtx ?_ ctx
  rw [← hctx]
  exact follows_record hbusy hlen (fun w r hsame hkind => hdone w r hsame (by rw [hkind, hstage])) hmem hstage

/-- The records that are left of a list, from the next record's first field on. -/
theorem follows_decodeRecords {v : ParseVars} (hsetup : v.inSetup = true) (hstage : v.stage = stage) {n : Nat}
    (hleft : v.left = n + 1)
    (hrest : ∀ w, v.AfterList stage w → ∀ ctx, s.Follows v.start (.more w) ctx (rest w.header)) (ctx : ErrCtx) :
    s.Follows v.start (.more { v with point := firstPoint stage }) ctx
      (decodeRecords (recordDecoder s.params s.payload s.channels stage) stage (n + 1) (headerCount v.header stage)
        v.header >>= rest) := by
  induction n generalizing v ctx with
  | zero =>
    refine follows_decodeRecords_succ hbusy hlen hmem hsetup hstage (fun w r hsame hkind => ?_) ctx
    obtain ⟨hin, hwstage, hwleft, hwstart, hheader⟩ := hsame
    rw [ParseVars.recordDone_last r (hin.trans hsetup) (by omega), hwstage, hstage, ← hheader, decodeRecords, pure_bind]
    exact hrest { w with
      header := pushRecord w.header r, left := 0, stage := nextStage stage, point := listPoint (nextStage stage) }
      ⟨hin.trans hsetup, rfl, rfl, hwstart, fun t ht => by rw [headerCount_pushRecord_other hkind ht, hheader]⟩ _
  | succ n ih =>
    refine follows_decodeRecords_succ hbusy hlen hmem hsetup hstage (fun w r hsame hkind => ?_) ctx
    obtain ⟨hin, hwstage, hwleft, hwstart, hheader⟩ := hsame
    have hpoint : firstPoint w.stage = firstPoint stage := by rw [hwstage, hstage]
    rw [ParseVars.recordDone_next r (hin.trans hsetup) (by omega), hpoint, ← headerCount_pushRecord_same hkind hmem,
      ← hwstart, ← hheader]
    refine ih (v := { w with header := pushRecord w.header r, left := w.left - 1 }) (hin.trans hsetup)
      (hwstage.trans hstage) (Nat.sub_eq_of_eq_add (hwleft.trans hleft)) (fun u hu ctx => ?_) _
    rw [hwstart]
    refine hrest u ⟨hu.inSetup, hu.stage_eq, hu.point_eq, hu.start_eq.trans hwstart, fun t ht => ?_⟩ ctx
    rw [hu.others t ht, headerCount_pushRecord_other hkind ht, hheader]

/-- A whole list, from its count field on (R360, R361). -/
theorem follows_setupList {v : ParseVars} (hsetup : v.inSetup = true) (hstage : v.stage = stage)
    (hpt : v.point = .setupCount) (hnone : headerCount v.header stage = 0)
    (hrest : ∀ w, v.AfterList stage w → ∀ ctx, s.Follows v.start (.more w) ctx (rest w.header)) (ctx : ErrCtx) :
    s.Follows v.start (.more v) ctx (setupList s.params s.payload s.channels stage v.header >>= rest) := by
  rw [setupList]
  simp only [bind_assoc]
  refine .setCtx ?_ ctx
  refine .field hbusy hlen (by simp [hpt]) (f := read s.payload (countWidth stage))
    (k := fun raw => .more { v with left := raw + 1, point := firstPoint stage }) ?_ (.read _) rfl
    (by simp [ParseVars.ctx, hpt, hstage]) fun raw _ _ _ => ?_
  · simp only [State.nextField, State.plainField, hpt, hstage]
    rfl
  · have hgo := follows_decodeRecords hbusy hlen hmem (rest := rest) (v := { v with left := raw + 1 }) hsetup hstage rfl
      (fun w hw => hrest w ⟨hw.inSetup, hw.stage_eq, hw.point_eq, hw.start_eq, hw.others⟩) ⟨stage, true, 0⟩
    rw [hnone] at hgo
    exact hgo

end

section
variable {s : State} (hbusy : s.phase = .busy) (hlen : s.inLen.toNat ≤ 2 ^ 28)
include hbusy hlen

/-- The framing bit and the trailing bytes (R365). -/
theorem follows_setupFraming {v : ParseVars} (hstage : v.stage = .framing) (hpt : v.point = .setupFraming)
    (ctx : ErrCtx) :
    s.Follows v.start (.more v) ctx (setupFraming s.payload >>= fun _ => pure (.setup v.header)) := by
  have hctx : v.ctx = ⟨.framing, false, 0⟩ := by simp [ParseVars.ctx, hpt, hstage, headerCount]
  rw [setupFraming, bind_assoc]
  refine .setCtx ?_ ctx
  refine .field hbusy hlen (by simp [hpt]) (f := do
      let framing ← flag s.payload
      if framing = false then raise .trailingDataOrMissingFramingBit 0 0
      trailingCheck s.payload) (k := fun _ => .emit (.setup v.header)) ?_
    (.bind .flag fun _ => by exact .check nofun (frames_trailingCheck s.payload)) rfl hctx fun _ _ _ _ => .emit _ _ _
  simp only [State.nextField, hpt, bind_assoc]
  refine bind_congr fun framing => ?_
  cases framing <;> rfl

/-- The lists from a stage on, and the framing. -/
theorem follows_setupLists {stages : List Stage} (hsuffix : stages <:+ setupStages) {v : ParseVars}
    (hsetup : v.inSetup = true) (hstage : v.stage = stages.headD .framing) (hpt : v.point = listPoint v.stage)
    (hnone : ∀ t ∈ stages, headerCount v.header t = 0) (ctx : ErrCtx) :
    s.Follows v.start (.more v) ctx (setupLists s.params s.payload s.channels stages v.header >>= fun h =>
      setupFraming s.payload >>= fun _ => pure (.setup h)) := by
  induction stages generalizing v ctx with
  | nil =>
    rw [setupLists, pure_bind]
    exact follows_setupFraming hbusy hlen hstage (by rw [hpt, hstage]; rfl) ctx
  | cons stage rest ih =>
    obtain ⟨hmem, hnext, hnotin⟩ := nextStage_of_suffix hsuffix
    have hstage : v.stage = stage := hstage
    rw [setupLists, bind_assoc]
    refine follows_setupList hbusy hlen hmem hsetup hstage ?_ (hnone _ List.mem_cons_self) (fun w hw ctx => ?_) ctx
    · rw [hpt, hstage, listPoint, if_neg (by rintro rfl; revert hmem; decide)]
    · rw [← hw.start_eq]
      refine ih ((List.suffix_cons _ _).trans hsuffix) hw.inSetup (hw.stage_eq.trans hnext)
        (by rw [hw.point_eq, hw.stage_eq]) (fun t ht => ?_) ctx
      rw [hw.others t (ne_of_mem_of_not_mem ht hnotin), hnone t (List.mem_cons_of_mem _ ht)]

end

/-- DECODE_SETUP is its count fields, its records and its framing bit. -/
theorem exec_decodeSetup_eq_moves {s : State} (hparams : s.params.wf) (hbusy : s.phase = .busy)
    (hparse : s.parse = ParseVars.none) (hop : decodeOpcode s.cmd.toNat = .ok .decodeSetup) :
    ∃ n, exec .decodeSetup s = .next (State.moves n s) := by
  refine exec_eq_moves hparams hbusy hparse hop rfl (exec_decodeSetup s) fun hlen => ?_
  simp only [decodeSetup_eq_setupLists, map_eq_pure_bind, bind_assoc, pure_bind]
  exact follows_setupLists hbusy hlen (List.suffix_refl _) rfl rfl rfl (fun t _ => by cases t <;> rfl) _

/-- Settles O44: the moves follow an ordered table run by run, and a header list by list. -/
theorem fieldByFieldReachesCodebookAndSetup : Obligations.FieldByFieldReachesCodebookAndSetup := by
  intro s i hi hparams hbusy hparse hop
  simp only [List.mem_cons, List.not_mem_nil, or_false] at hi
  obtain rfl | rfl := hi
  · exact exec_recordCommand_eq_moves hparams hbusy hparse (stage := .codebook) (by decide) hop
  · exact exec_decodeSetup_eq_moves hparams hbusy hparse hop

end Sys2Proof.Machine
